-- ==== Sys2Proof/Word.lean ====
section
/-! DEFINITION. The two word types of the block: `u8` and `u16` of rule R13 (`00_scope.md`). -/

namespace Sys2Proof

/-- `u8` (R13). Bit 0 is the least significant bit. -/
abbrev Byte := BitVec 8

/-- `u16` (R13). -/
abbrev Half := BitVec 16

end Sys2Proof
end

