-- ==== Sys2Proof/Config.lean ====
section
/-! DEFINITION. What an implementation fixes: the parameters of rule R10 (`00_scope.md`). Each is an opaque
constant with no body, so every theorem about the model holds for every value of it (logs 4, 5, 6). -/

namespace Sys2Proof

/-- The three bindings of the Key Binding, indexed 0 to 2 as in R12: volume up, mute, volume down. -/
inductive Binding where
  | volumeUp
  | mute
  | volumeDown
  deriving DecidableEq, Repr, Inhabited

/-- A pin-scan priority order: one of the six permutations of the binding indices (R10, R124). The name lists
the indices in the order they are examined. -/
inductive ScanOrder where
  | order012
  | order021
  | order102
  | order120
  | order201
  | order210
  deriving DecidableEq, Repr, Inhabited

/-- What `F_CPU_HZ` is taken from. R10 asks for `F_CPU_HZ > 0` and R161 for a `TARGET` that fits in 16 bits; the
numbers that meet both are exactly 1 to 459 054 536 (DEDUCED, log 5; safe: every one of them is admitted). -/
opaque Config.clock : Fin 459054537

/-- `F_CPU_HZ` (R10, D15: OPEN), the nominal clock frequency. -/
def Config.fCpuHz : Nat := max 1 Config.clock.val

/-- `FACTORY_TRIM` (R10, D25: OPEN), what the trim register holds out of reset. -/
opaque Config.factoryTrim : Byte

/-- `CAL_ADDR` (R10, D26: OPEN), the store address of the Calibration Value. -/
opaque Config.calAddr : Nat

/-- `NV_INIT` (R10, D27: OPEN), the store byte at `CAL_ADDR` before any write. -/
opaque Config.nvInit : Byte

/-- `SCAN_ORDER` (R10, R124, D5). The spec's default is `order012`; the model admits every order, as R124 asks
(DESIGN CHOICE, log 6; safe). -/
opaque Config.scanOrder : ScanOrder

/-- `PIN_0`, `PIN_1`, `PIN_2` (R10, D36: OPEN), the physical pins; no rule depends on them. -/
opaque Config.pin : Binding → Nat

end Sys2Proof
end

