-- ==== Sys2Proof/Syntax.lean ====
section
/-! DEFINITION. The events of the block as syntax: one constructor of `Instr` per row of `opcode_table.json`. -/

namespace Sys2Proof

/-- The six stimulus events of the tag map (R71). -/
inductive EventKind where
  | reset
  | poll
  | sample
  | sched
  | busreset
  | setup
  deriving DecidableEq, Repr

/-- The eleven frame-length draws of a BUSRESET (R74); `mk` is the answer of the `k`-th `Measure()`. -/
structure Draws where
  m0 : Half
  m1 : Half
  m2 : Half
  m3 : Half
  m4 : Half
  m5 : Half
  m6 : Half
  m7 : Half
  m8 : Half
  m9 : Half
  m10 : Half
  deriving DecidableEq, Repr

/-- One USB setup packet, the operands of SETUP (R81). -/
structure SetupPacket where
  bmRequestType : Byte
  bRequest : Byte
  wValue : Half
  wIndex : Half
  wLength : Half
  deriving DecidableEq, Repr

/-- A class request, its request code taken out: what the five class rows of R84 leave free. `dir` is
`bmRequestType[7]` and `recipient` is `bmRequestType[4:0]` (R82). -/
structure ClassRequest where
  dir : BitVec 1
  recipient : BitVec 5
  wValue : Half
  wIndex : Half
  wLength : Half
  deriving DecidableEq, Repr

/-- The events and control requests of the block: the twelve rows of `opcode_table.json`. The first six are
the events that the tag selects (R71); the last six are the requests that a SETUP's word `W` selects (R84),
each with what its row leaves free. -/
inductive Instr where
  /-- RESET (R240). -/
  | reset
  /-- POLL (R101). -/
  | poll
  /-- SAMPLE `P` (R121). -/
  | sample (p : Byte)
  /-- SCHED `Q` (R141). -/
  | sched (q : Byte)
  /-- BUSRESET `m0, ..., m10` (R164). -/
  | busreset (m : Draws)
  /-- SETUP, any packet (R191). -/
  | setup (pkt : SetupPacket)
  /-- SETUP.GET_REPORT (R192). -/
  | setupGetReport (r : ClassRequest)
  /-- SETUP.GET_IDLE (R193). -/
  | setupGetIdle (r : ClassRequest)
  /-- SETUP.GET_PROTOCOL (R195). -/
  | setupGetProtocol (r : ClassRequest)
  /-- SETUP.SET_IDLE (R194). -/
  | setupSetIdle (r : ClassRequest)
  /-- SETUP.SET_PROTOCOL (R196). -/
  | setupSetProtocol (r : ClassRequest)
  /-- SETUP.UNHANDLED (R197). -/
  | setupUnhandled (pkt : SetupPacket)
  deriving DecidableEq, Repr

/-- The event an instruction belongs to: a control request comes in a SETUP (R84). -/
def Instr.kind : Instr → EventKind
  | .reset => .reset
  | .poll => .poll
  | .sample _ => .sample
  | .sched _ => .sched
  | .busreset _ => .busreset
  | .setup _ => .setup
  | .setupGetReport _ => .setup
  | .setupGetIdle _ => .setup
  | .setupGetProtocol _ => .setup
  | .setupSetIdle _ => .setup
  | .setupSetProtocol _ => .setup
  | .setupUnhandled _ => .setup

/-- The rows of format EVT: what the tag alone selects (R70, R71). The other six rows have format SETUP. -/
def Instr.isEvent : Instr → Bool
  | .reset => true
  | .poll => true
  | .sample _ => true
  | .sched _ => true
  | .busreset _ => true
  | .setup _ => true
  | .setupGetReport _ => false
  | .setupGetIdle _ => false
  | .setupGetProtocol _ => false
  | .setupSetIdle _ => false
  | .setupSetProtocol _ => false
  | .setupUnhandled _ => false

end Sys2Proof
end

