-- ==== Sys2Proof/WellFormed.lean ====
section
/-! DEFINITION. The checks on an instruction's fields: reserved operand bits (R72, R73), and that a packet called
UNHANDLED is one that no class row of R84 takes. An ill-formed SAMPLE or SCHED still decodes, and executing it
refuses (R85, R217). -/

namespace Sys2Proof

/-- `P[7:3] = 0` (R72). -/
def sampleReservedClear (p : Byte) : Bool := p.extractLsb' 3 5 = 0

/-- `Q[7:1] = 0` (R73). -/
def schedReservedClear (q : Byte) : Bool := q.extractLsb' 1 7 = 0

/-- Some class row of R84 takes the packet: type class, and one of the five request codes of R83. -/
def SetupPacket.isHandled (pkt : SetupPacket) : Bool :=
  pkt.bmRequestType.extractLsb' 5 2 = 0b01#2 &&
    (pkt.bRequest = 0x01 || pkt.bRequest = 0x02 || pkt.bRequest = 0x03 || pkt.bRequest = 0x0A ||
      pkt.bRequest = 0x0B)

/-- The well-formed instructions. -/
def Instr.wf : Instr → Bool
  | .reset => true
  | .poll => true
  | .sample p => sampleReservedClear p
  | .sched q => schedReservedClear q
  | .busreset _ => true
  | .setup _ => true
  | .setupGetReport _ => true
  | .setupGetIdle _ => true
  | .setupGetProtocol _ => true
  | .setupSetIdle _ => true
  | .setupSetProtocol _ => true
  | .setupUnhandled pkt => !pkt.isHandled

end Sys2Proof
end

