-- ==== Sys2Proof/Decode.lean ====
section
/-! DEFINITION. The byte encoding of the stimulus events (R70 to R74), the decode of the control requests
(R81 to R84), the decoder of a byte stream, total on any bytes (R85), and the encoder (R87). -/

namespace Sys2Proof

/-! ## The tag map (R71) -/

/-- The tag byte of an event (R71). -/
def EventKind.tag : EventKind → Byte
  | .reset => 0x00
  | .poll => 0x01
  | .sample => 0x02
  | .sched => 0x03
  | .busreset => 0x04
  | .setup => 0x05

/-- The length of an event in bytes, tag included (R70, R71). -/
def EventKind.length : EventKind → Nat
  | .reset => 1
  | .poll => 1
  | .sample => 2
  | .sched => 2
  | .busreset => 23
  | .setup => 9

/-- The event a tag byte names; none for the reserved tags 0x06 to 0xFF (R71). -/
def eventOfTag (t : Byte) : Option EventKind :=
  if t = 0x00 then some .reset
  else if t = 0x01 then some .poll
  else if t = 0x02 then some .sample
  else if t = 0x03 then some .sched
  else if t = 0x04 then some .busreset
  else if t = 0x05 then some .setup
  else none

/-! ## Fields of an event's bytes -/

/-- Byte `k` of an event; the tag is byte 0. -/
def byteAt (bs : List Byte) (k : Nat) : Byte := bs.getD k 0

/-- The little-endian u16 at bytes `k` and `k + 1` of an event: the byte at the lower offset is bits 7:0
(R54). -/
def halfAt (bs : List Byte) (k : Nat) : Half := byteAt bs (k + 1) ++ byteAt bs k

/-- The two bytes of a u16, low byte first (R54). -/
def halfBytes (x : Half) : List Byte := [x.extractLsb' 0 8, x.extractLsb' 8 8]

/-- The draws of a BUSRESET: `m_k` is at bytes `1 + 2k` and `2 + 2k` (R74). -/
def drawsAt (bs : List Byte) : Draws where
  m0 := halfAt bs 1
  m1 := halfAt bs 3
  m2 := halfAt bs 5
  m3 := halfAt bs 7
  m4 := halfAt bs 9
  m5 := halfAt bs 11
  m6 := halfAt bs 13
  m7 := halfAt bs 15
  m8 := halfAt bs 17
  m9 := halfAt bs 19
  m10 := halfAt bs 21

/-- The setup packet of a SETUP: bytes 1 to 8 (R81). -/
def packetAt (bs : List Byte) : SetupPacket where
  bmRequestType := byteAt bs 1
  bRequest := byteAt bs 2
  wValue := halfAt bs 3
  wIndex := halfAt bs 5
  wLength := halfAt bs 7

/-- The event of kind `k` that the bytes hold, once they are known to be enough of them. -/
def readEvent (k : EventKind) (bs : List Byte) : Instr :=
  match k with
  | .reset => .reset
  | .poll => .poll
  | .sample => .sample (byteAt bs 1)
  | .sched => .sched (byteAt bs 1)
  | .busreset => .busreset (drawsAt bs)
  | .setup => .setup (packetAt bs)

/-! ## The decoder of a stream (R85) -/

/-- What stands at the front of a stimulus stream (R85). -/
inductive Decoded where
  /-- An event with its operands, and the bytes after it. -/
  | event (i : Instr) (rest : List Byte)
  /-- `RESERVED(tag)`: one byte long (R85). -/
  | reserved (tag : Byte) (rest : List Byte)
  /-- `TRUNCATED(tag)`: the stream ends inside this event's operands (R85, R218). -/
  | truncated (tag : Byte)
  /-- No byte is left: the stream has ended (R107). -/
  | ended
  deriving DecidableEq, Repr

/-- The decoder (R85): the tag alone gives the length; the operands follow it. -/
def decode (bs : List Byte) : Decoded :=
  match bs with
  | [] => .ended
  | t :: rest =>
    match eventOfTag t with
    | none => .reserved t rest
    | some k =>
      if (t :: rest).length < k.length then .truncated t
      else .event (readEvent k (t :: rest)) ((t :: rest).drop k.length)

/-! ## The control requests inside SETUP (R81 to R84) -/

/-- `W = {bRequest, bmRequestType}`, `bRequest` in bits 15:8 (R84). -/
def SetupPacket.word (pkt : SetupPacket) : Half := pkt.bRequest ++ pkt.bmRequestType

/-- What a class row of R84 leaves free in a packet: direction bit 7, recipient bits 4:0 (R82), and the three
u16 fields. -/
def SetupPacket.classRequest (pkt : SetupPacket) : ClassRequest where
  dir := pkt.bmRequestType.extractLsb' 7 1
  recipient := pkt.bmRequestType.extractLsb' 0 5
  wValue := pkt.wValue
  wIndex := pkt.wIndex
  wLength := pkt.wLength

/-- The control request a packet selects: the rows of R84 in order, the first match wins. -/
def requestOf (pkt : SetupPacket) : Instr :=
  if pkt.word &&& 0xFF60 = 0x0120 then .setupGetReport pkt.classRequest
  else if pkt.word &&& 0xFF60 = 0x0220 then .setupGetIdle pkt.classRequest
  else if pkt.word &&& 0xFF60 = 0x0320 then .setupGetProtocol pkt.classRequest
  else if pkt.word &&& 0xFF60 = 0x0A20 then .setupSetIdle pkt.classRequest
  else if pkt.word &&& 0xFF60 = 0x0B20 then .setupSetProtocol pkt.classRequest
  else .setupUnhandled pkt

/-! ## The encoder (R70 to R74, R81, R87) -/

/-- `bmRequestType` of a class request: direction, type 0b01, recipient (R82). -/
def ClassRequest.requestType (r : ClassRequest) : Byte := r.dir ++ 0b01#2 ++ r.recipient

/-- The packet of a class request with request code `code` (R83). -/
def ClassRequest.packet (r : ClassRequest) (code : Byte) : SetupPacket where
  bmRequestType := r.requestType
  bRequest := code
  wValue := r.wValue
  wIndex := r.wIndex
  wLength := r.wLength

/-- The eight packet bytes in their standard order (R81). -/
def SetupPacket.bytes (pkt : SetupPacket) : List Byte :=
  [pkt.bmRequestType, pkt.bRequest] ++ halfBytes pkt.wValue ++ halfBytes pkt.wIndex ++ halfBytes pkt.wLength

/-- The 22 operand bytes of a BUSRESET (R74). -/
def Draws.bytes (m : Draws) : List Byte :=
  halfBytes m.m0 ++ halfBytes m.m1 ++ halfBytes m.m2 ++ halfBytes m.m3 ++ halfBytes m.m4 ++ halfBytes m.m5 ++
    halfBytes m.m6 ++ halfBytes m.m7 ++ halfBytes m.m8 ++ halfBytes m.m9 ++ halfBytes m.m10

/-- The packet that carries a control request; none for an event that is no SETUP. -/
def Instr.packet? : Instr → Option SetupPacket
  | .reset => none
  | .poll => none
  | .sample _ => none
  | .sched _ => none
  | .busreset _ => none
  | .setup pkt => some pkt
  | .setupGetReport r => some (r.packet 0x01)
  | .setupGetIdle r => some (r.packet 0x02)
  | .setupGetProtocol r => some (r.packet 0x03)
  | .setupSetIdle r => some (r.packet 0x0A)
  | .setupSetProtocol r => some (r.packet 0x0B)
  | .setupUnhandled pkt => some pkt

/-- The bytes of an instruction (R87); a control request is encoded as the SETUP that carries it. -/
def encode : Instr → List Byte
  | .reset => [0x00]
  | .poll => [0x01]
  | .sample p => [0x02, p]
  | .sched q => [0x03, q]
  | .busreset m => 0x04 :: m.bytes
  | .setup pkt => 0x05 :: pkt.bytes
  | .setupGetReport r => 0x05 :: (r.packet 0x01).bytes
  | .setupGetIdle r => 0x05 :: (r.packet 0x02).bytes
  | .setupGetProtocol r => 0x05 :: (r.packet 0x03).bytes
  | .setupSetIdle r => 0x05 :: (r.packet 0x0A).bytes
  | .setupSetProtocol r => 0x05 :: (r.packet 0x0B).bytes
  | .setupUnhandled pkt => 0x05 :: pkt.bytes

/-! ## The opcode table's words (`opcode_table.json`) -/

/-- The first `n` bytes of a number, least significant first. -/
def wordBytes : Nat → Nat → List Byte
  | 0, _ => []
  | n + 1, w => BitVec.ofNat 8 w :: wordBytes n (w / 256)

/-- Whether a word of the table is the request word `W` of a row of format SETUP (R84) and not an event's
leading bytes. `W` has 16 bits, and the only events of 16 bits have the tags 0x02 and 0x03 (R71); those two are
read as events (DESIGN CHOICE, log 8). -/
def isRequestWord (nbits w : Nat) : Bool :=
  nbits = 16 && w % 256 ≠ 0x02 && w % 256 ≠ 0x03

/-- The bytes of the instruction that a word of the table stands for: an event of the length its tag gives, or,
for a request word, the SETUP that carries it, with every field the table gives no bits zero (log 8). -/
def tableBytes (nbits w : Nat) : List Byte :=
  let w := w % 2 ^ nbits
  if isRequestWord nbits w then 0x05 :: wordBytes 8 w
  else
    match eventOfTag (BitVec.ofNat 8 w) with
    | some k => wordBytes k.length w
    | none => wordBytes 1 w

/-- What the decoder reads from a word of the table: an event, or, for a request word, the control request that
the decoded SETUP selects (R84); none where the decoder gives no event. -/
def decodeTableWord (nbits w : Nat) : Option Instr :=
  match decode (tableBytes nbits w) with
  | .event (.setup pkt) _ => if isRequestWord nbits (w % 2 ^ nbits) then some (requestOf pkt) else some (.setup pkt)
  | .event i _ => some i
  | .reserved _ _ => none
  | .truncated _ => none
  | .ended => none

end Sys2Proof
end

