-- ==== Sys2Proof/Machine/State.lean ====
section
/-! DEFINITION. The state of the block: the record of rule R20 (`10_state.md`), as plain data, and the model's
own input field `stream`; the reasons a step can stop; the states at power-on and after RESET (R35, R107). -/

namespace Sys2Proof.Machine

/-- Latch State (R21). R77 gives the three states a 2-bit code and reserves 0b11, which no rule writes; a type
of three names cannot hold it. -/
inductive Latch where
  | idle
  | pendingSend
  | pendingRelease
  deriving DecidableEq, Repr

/-- The sequencing register (R31). -/
inductive Phase where
  | off
  | awaitPoll
  | polling
  | sampled
  deriving DecidableEq, Repr

/-- A 2-byte report `{ report_id, keycode }` (R24, R75). -/
structure Report where
  id : Byte
  code : Byte
  deriving DecidableEq, Repr

/-- The sticky fault marks (R211), each with its recorded value. They are state: an event that raises one runs
to its end (R224). -/
inductive FaultMark where
  /-- Raised by `Submit`: a report handed over in a step whose readiness answer is 0 (R212). -/
  | submitNotReady (b0 b1 : Byte)
  /-- Raised by BUSRESET and SETUP: a notification delivered while `inCal = 1` (R213); the event's tag. -/
  | notifyInCalibration (tag : Byte)
  /-- Raised by `Measure`: a measurement while `inCal = 0` (R214). -/
  | measureOutsideCalibration
  deriving DecidableEq, Repr

/-- The sticky refusal marks (R215 to R218), each with its recorded value. They are state: the refused event is
not executed, and later events still are (R219). -/
inductive RefusalMark where
  /-- The sequencing register does not accept the event (R215). -/
  | outOfPhase (tag : Byte) (phase : Phase)
  /-- The tag is 0x06 to 0xFF (R216). -/
  | reservedTag (tag : Byte)
  /-- Reserved operand bits of SAMPLE or SCHED are not 0 (R217). -/
  | reservedBits (tag operand : Byte)
  /-- The stream ends inside the event's operands (R218). -/
  | truncated (tag : Byte)
  deriving DecidableEq, Repr

/-- An interface event of `hist` (R20). -/
inductive HistEntry where
  /-- `NvRead(a, v)` (R51). -/
  | nvRead (a : Nat) (v : Byte)
  /-- `NvWrite(a, v)` (R52). -/
  | nvWrite (a : Nat) (v : Byte)
  /-- `TrimWrite(v)` (R28, R163). -/
  | trimWrite (v : Byte)
  /-- `Measure(trim, x)` (R162). -/
  | measure (trim : Byte) (x : Half)
  /-- `CtrlResp(bmRequestType, bRequest, resp)` (R191). -/
  | ctrlResp (bmRequestType bRequest : Byte) (resp : List Byte)
  deriving DecidableEq, Repr

/-- The state (R20), field by field in its order, and the model's own `stream` (log 1). -/
structure State where
  /-- Latch State (R21). -/
  latch : Latch
  /-- Debounce Counter (R22). -/
  debounce : Byte
  /-- `LastKey` (R23). -/
  lastKey : Byte
  /-- Report Buffer (R24). -/
  rbuf : Report
  /-- HID idle rate, in units of 4 ms (R26). -/
  idleRate : Byte
  /-- HID protocol mode (R27). -/
  protocolVersion : Byte
  /-- Oscillator tuning register (R28). -/
  trim : Byte
  /-- Calibration Value cache (R30). -/
  calCache : Byte
  /-- The persistent store byte at `CAL_ADDR` (R29), all of the store that the spec models (R50, log 9). -/
  nvCal : Byte
  /-- Notifications masked (R33). -/
  inCal : Bool
  /-- Sequencing register (R31). -/
  phase : Phase
  /-- Sticky fault marks (R211): a set, as a list without repeats (log 7). -/
  faults : List FaultMark
  /-- Sticky refusal marks (R215 to R218): a set, as a list without repeats (log 7). -/
  refused : List RefusalMark
  /-- Every report handed to the transport, in order (R146). -/
  txLog : List Report
  /-- Every store access, trim write, measurement and control response, in order (R20). -/
  hist : List HistEntry
  /-- The stimulus bytes not yet executed: the environment's input, held here (R63, R70; log 1). -/
  stream : List Byte
  deriving DecidableEq, Repr

/-- Why a step stops. Nothing the block does stops it (R105, R210). -/
inductive Fault where
  /-- `step`: no byte is left on the stream, so the run has ended (R107). Safe: the spec gives no event there
  (DESIGN CHOICE, log 2). -/
  | streamEnded
  deriving DecidableEq, Repr

/-- Why an instruction has no meaning. -/
inductive Refusal where
  /-- `exec`: an instruction not modelled yet, by its mnemonic. Safe. No arm answers with it. -/
  | notModelled (mnemonic : String)
  deriving DecidableEq, Repr

/-- The block before its first RESET (R35, R107): `phase = Off`, the store byte `NV_INIT`, empty marks and logs.
The other fields hold no value there (R35); the values below are the model's (DESIGN CHOICE, log 3), and no
event reads them before RESET writes them. -/
def State.powerOn : State where
  latch := .idle
  debounce := 0
  lastKey := 0
  rbuf := ⟨0, 0⟩
  idleRate := 0
  protocolVersion := 0
  trim := 0
  calCache := 0
  nvCal := Config.nvInit
  inCal := false
  phase := .off
  faults := []
  refused := []
  txLog := []
  hist := []
  stream := []

/-- The machine right after reset: what the RESET event leaves of the power-on state, field by field as in R35.
The stream is empty (DESIGN CHOICE, log 1). -/
def State.reset : State where
  latch := .idle
  debounce := 0x00
  lastKey := 0x00
  rbuf := ⟨0x00, 0x00⟩
  idleRate := 125
  protocolVersion := 0x00
  trim := if Config.nvInit = 0xFF then Config.factoryTrim else Config.nvInit
  calCache := Config.nvInit
  nvCal := Config.nvInit
  inCal := false
  phase := .awaitPoll
  faults := []
  refused := []
  txLog := []
  hist :=
    if Config.nvInit = 0xFF then [.nvRead Config.calAddr Config.nvInit]
    else [.nvRead Config.calAddr Config.nvInit, .trimWrite Config.nvInit]
  stream := []

end Sys2Proof.Machine
end

