-- ==== Sys2Proof/Machine/Flags.lean ====
section
/-! DEFINITION. The block has no flags and no condition codes (R20). What it has instead is the saturating
arithmetic of the Debounce Counter (R15, R120) and the sets of sticky marks (R211, R215 to R219). -/

namespace Sys2Proof.Machine

/-- `sat_inc8` (R15): the counter saturates at 255 and never wraps (R22). -/
def satInc8 (v : Byte) : Byte := if v = 255 then 255 else v + 1

/-- A set gains a mark: a list without repeats, in the order of first occurrence (log 7). -/
def insertMark {α : Type} [DecidableEq α] (m : α) (l : List α) : List α := if m ∈ l then l else l ++ [m]

end Sys2Proof.Machine
end

