-- ==== Sys2Proof/Machine/Operands.lean ====
section
/-! DEFINITION. The constants of the block (R11, R12), every operand form of its events (R72 to R74, R82), and the
2-bit codes of the register names (R31, R77). -/

namespace Sys2Proof.Machine

/-! ## Constants (R11) -/

/-- `DEBOUNCE_MAX` (R11). -/
def debounceMax : Byte := 255

/-- `REPORT_ID` (R11). -/
def reportId : Byte := 0x01

/-- The keycode of "no key" (R11, R75). -/
def noKey : Byte := 0x00

/-- `CAL_ABSENT`, the "never calibrated" sentinel (R11, R78). -/
def calAbsent : Byte := 0xFF

/-- `IDLE_DEFAULT`: 500 ms in units of 4 ms (R11). -/
def idleDefault : Byte := 125

/-- The boot protocol (R79, D35). -/
def protocolBoot : Byte := 0x00

/-- The zeroed Report Buffer (R24, R75). -/
def zeroReport : Report := ⟨0x00, 0x00⟩

/-! ## The Key Binding (R12, R76) and the pins (R72, R124) -/

/-- The index of a binding (R12): the bit of the pin byte that holds its pin's level (R72). -/
def pinIndex : Binding → Nat
  | .volumeUp => 0
  | .mute => 1
  | .volumeDown => 2

/-- The keycode of a binding (R12, R76). -/
def keycode : Binding → Byte
  | .volumeUp => 0xE9
  | .mute => 0xE3
  | .volumeDown => 0xEA

/-- The Key Binding: physical pin and keycode of each entry (R12). No event writes it. -/
def keyBinding (b : Binding) : Nat × Byte := (Config.pin b, keycode b)

/-- The bindings in the order the sampler examines them (R124). -/
def scanBindings : ScanOrder → List Binding
  | .order012 => [.volumeUp, .mute, .volumeDown]
  | .order021 => [.volumeUp, .volumeDown, .mute]
  | .order102 => [.mute, .volumeUp, .volumeDown]
  | .order120 => [.mute, .volumeDown, .volumeUp]
  | .order201 => [.volumeDown, .volumeUp, .mute]
  | .order210 => [.volumeDown, .mute, .volumeUp]

/-- The pin of a binding is asserted: its level is 0, active-low (R16, R72). -/
def asserted (p : Byte) (b : Binding) : Bool := !p.getLsbD (pinIndex b)

/-- The first asserted binding of the scan order, if any (R124). -/
def winner (order : ScanOrder) (p : Byte) : Option Binding :=
  (scanBindings order).find? (asserted p)

/-- `P[7:3] ≠ 0`: reserved bits of SAMPLE's operand are set (R72, R217). -/
def pinReservedSet (p : Byte) : Bool := p.extractLsb' 3 5 ≠ 0

/-! ## The readiness byte (R73) -/

/-- `Q[7:1] ≠ 0`: reserved bits of SCHED's operand are set (R73, R217). -/
def readyReservedSet (q : Byte) : Bool := q.extractLsb' 1 7 ≠ 0

/-- `Q[0]`, the answer of `is_send_ready()` in this step (R73). -/
def readyBit (q : Byte) : Bool := q.getLsbD 0

/-! ## The frame-length draws (R74, R162) and the target (R161) -/

/-- The answer of the `k`-th `Measure()` of a calibration (R74). No calibration makes a call after `k = 10`
(R172); the last arm answers `m10` for every later `k` so that the function is total. -/
def drawAt (m : Draws) (k : Nat) : Half :=
  match k with
  | 0 => m.m0
  | 1 => m.m1
  | 2 => m.m2
  | 3 => m.m3
  | 4 => m.m4
  | 5 => m.m5
  | 6 => m.m6
  | 7 => m.m7
  | 8 => m.m8
  | 9 => m.m9
  | _ => m.m10

/-- `round_half_up(p / q)` (R15). -/
def roundHalfUp (p q : Nat) : Nat := (2 * p + q) / (2 * q)

/-- The target frame length at a clock frequency (R161). -/
def targetOf (hz : Nat) : Nat := roundHalfUp (1499 * hz) 10500000

/-- `TARGET` (R10, R161), derived from `F_CPU_HZ`. -/
def target : Nat := targetOf Config.fCpuHz

/-- The deviation `|x - TARGET|`, over `int` (R15, R164). -/
def deviation (x : Half) (target : Nat) : Nat := ((x.toNat : Int) - (target : Int)).natAbs

/-! ## Request fields (R191, R194, R196) -/

/-- `wValue[15:8]` (R194). -/
def highByte (x : Half) : Byte := x.extractLsb' 8 8

/-- `wValue[7:0]` (R196). -/
def lowByte (x : Half) : Byte := x.extractLsb' 0 8

/-! ## Codes of the register names -/

/-- The 2-bit code of the Latch State (R77); 0b11 is the code of none. -/
def latchCode : Latch → BitVec 2
  | .idle => 0b00
  | .pendingSend => 0b01
  | .pendingRelease => 0b10

/-- The 2-bit code of the sequencing register (R31). -/
def phaseCode : Phase → BitVec 2
  | .off => 0b00
  | .awaitPoll => 0b01
  | .polling => 0b10
  | .sampled => 0b11

end Sys2Proof.Machine
end

