-- ==== Sys2Proof/Machine/Ops.lean ====
section
/-! DEFINITION. The named operations of the block: the primitives of rule R14 (store access, `Submit`,
`TrimWrite`, `Measure`, the marks, the sequencing register) and the shared shell of every event: the sequencing
check and the refusals. The block takes no exception (R210); refusing an event (R215, R217) is the one shared
operation in the place of one, and a handler returns by ending (R223). -/

namespace Sys2Proof.Machine

/-! ## Marks and logs -/

/-- `raise Fault(reason)` (R14, R211): the mark is recorded and the event goes on (R224). -/
def State.raise (s : State) (m : FaultMark) : State := { s with faults := insertMark m s.faults }

/-- `refuse(reason)` (R14, R215 to R218): no field other than `refused` changes. -/
def State.refuse (s : State) (m : RefusalMark) : State := { s with refused := insertMark m s.refused }

/-- An interface event is appended to `hist` (R20). -/
def State.log (s : State) (e : HistEntry) : State := { s with hist := s.hist ++ [e] }

/-! ## Registers -/

/-- `phase <- p` (R14, R31). -/
def State.setPhase (s : State) (p : Phase) : State := { s with phase := p }

/-- The notification mask `inCal` (R33). -/
def State.setInCal (s : State) (b : Bool) : State := { s with inCal := b }

/-- The Report Buffer is written (R24). -/
def State.setRbuf (s : State) (r : Report) : State := { s with rbuf := r }

/-- The latch moves to a state (R21). -/
def State.setLatch (s : State) (l : Latch) : State := { s with latch := l }

/-! ## The persistent store (R51, R52) -/

/-- `NvRead(CAL_ADDR)` (R51): the byte, and the state with the access logged. -/
def State.nvRead (s : State) : Byte × State := (s.nvCal, s.log (.nvRead Config.calAddr s.nvCal))

/-- `NvWrite(CAL_ADDR, v)` (R52). -/
def State.nvWrite (s : State) (v : Byte) : State := ({ s with nvCal := v } : State).log (.nvWrite Config.calAddr v)

/-! ## The oscillator and the frame counter (R162, R163) -/

/-- `TrimWrite(v)` (R163). -/
def State.trimWrite (s : State) (v : Byte) : State := ({ s with trim := v } : State).log (.trimWrite v)

/-- `Measure()`, the `k`-th call of a calibration (R162): the draw, and the state with the measurement logged at
the trim in force. A call while `inCal = 0` raises a fault mark (R214). -/
def State.measure (s : State) (m : Draws) (k : Nat) : Half × State :=
  let s := if s.inCal then s else s.raise .measureOutsideCalibration
  (drawAt m k, s.log (.measure s.trim (drawAt m k)))

/-! ## The transport (R58, R141, R146) -/

/-- `Submit(rbuf.id, rbuf.code)` (R141, R146): the two bytes are copied at the call (R58). A call while the
readiness answer of the step is 0 raises a fault mark, and the report is appended all the same (R212). -/
def State.submit (s : State) (ready : Bool) : State :=
  let s := if ready then s else s.raise (.submitNotReady s.rbuf.id s.rbuf.code)
  { s with txLog := s.txLog ++ [s.rbuf] }

/-! ## The shell of an event -/

/-- Which events the sequencing register accepts (the table of R31). -/
def accepts (p : Phase) (e : EventKind) : Bool :=
  match p, e with
  | _, .reset => true
  | .awaitPoll, .poll => true
  | .polling, .busreset => true
  | .polling, .setup => true
  | .polling, .sample => true
  | .sampled, .sched => true
  | _, _ => false

/-- The sequencing check of R215: an event that the sequencing register does not accept is not executed. -/
def sequenced (e : EventKind) (body : State → State) (s : State) : State :=
  if accepts s.phase e then body s else s.refuse (.outOfPhase e.tag s.phase)

/-- The reserved-bits check of R217: an event with reserved operand bits set is not executed. -/
def unreserved (e : EventKind) (operand : Byte) (bad : Bool) (body : State → State) (s : State) : State :=
  if bad then s.refuse (.reservedBits e.tag operand) else body s

/-- The delivery of a notification (R213, R224): a fault mark if `inCal = 1`, and the handler runs in any case.
Nothing is saved (R223). -/
def delivered (e : EventKind) (s : State) : State :=
  if s.inCal then s.raise (.notifyInCalibration e.tag) else s

/-- The answer to a control request is logged (R191). -/
def State.respond (s : State) (bmRequestType bRequest : Byte) (resp : List Byte) : State :=
  s.log (.ctrlResp bmRequestType bRequest resp)

/-! ## The front of the stream (R85) -/

/-- What stands at the front of the stream. -/
def fetch (s : State) : Decoded := decode s.stream

/-- The state with the front of the stream taken off. -/
def State.consumed (s : State) (rest : List Byte) : State := { s with stream := rest }

/-- `RESERVED(tag)` is executed: refused, whatever the phase (R216; log 10). -/
def takeReserved (tag : Byte) (s : State) : State := s.refuse (.reservedTag tag)

/-- `TRUNCATED(tag)` is executed: refused, whatever the phase (R218; log 10). -/
def takeTruncated (tag : Byte) (s : State) : State := s.refuse (.truncated tag)

/-- The state with the bytes of one instruction at the front of the stream (log 1). -/
def State.placed (s : State) (bs : List Byte) : State := { s with stream := bs ++ s.stream }

end Sys2Proof.Machine
end

