-- ==== Sys2Proof/Machine/Boot.lean ====
section
/-! DEFINITION. RESET (`70_reset_and_hazards.md`). -/

namespace Sys2Proof.Machine

/-- Steps 1 and 2 of the boot (R240, R241): the tuning register takes `FACTORY_TRIM`, which is no `TrimWrite`;
the store byte is read once, cached, and applied unless it is the sentinel. -/
def bootTrim (factoryTrim : Byte) (s : State) : State :=
  let read := ({ s with trim := factoryTrim } : State).nvRead
  let s := { read.2 with calCache := read.1 }
  if read.1 = calAbsent then s else s.trimWrite read.1

/-- Step 4 (R240): the volatile fields take their reset values (R35). -/
def bootVolatile (s : State) : State :=
  { s with
    latch := .idle
    debounce := 0x00
    lastKey := 0x00
    rbuf := zeroReport
    idleRate := idleDefault
    protocolVersion := protocolBoot
    inCal := false }

/-- RESET (R240): accepted in every phase; steps 3 and 5 touch only devices outside the block (R241). -/
def execReset (s : State) : Host.Outcome State Fault Refusal :=
  .next (sequenced .reset (fun s => (bootVolatile (bootTrim Config.factoryTrim s)).setPhase .awaitPoll) s)

end Sys2Proof.Machine
end

