-- ==== Sys2Proof/Machine/Calibrator.lean ====
section
/-! DEFINITION. BUSRESET (`43_oscillator_calibrator.md`). -/

namespace Sys2Proof.Machine

/-- The binary search under way (R164): `trial`, the number of measurements made, and the block. -/
structure Search where
  trial : Byte
  k : Nat
  st : State
  deriving DecidableEq, Repr

/-- The refinement under way (R164): the best candidate, its deviation (none for `+infinity`), the number of
measurements made, and the block. -/
structure Refinement where
  best : Byte
  bestDev : Option Nat
  k : Nat
  st : State
  deriving DecidableEq, Repr

/-- The steps of the binary search, from `CAL_STEP0` halving to 1 (R11, R165). -/
def searchSteps : List Byte := [128, 64, 32, 16, 8, 4, 2, 1]

/-- One probe of the binary search (R164, R165): the increment is kept when the measured length is below the
target, strictly. -/
def searchProbe (target : Nat) (m : Draws) (r : Search) (step : Byte) : Search :=
  let probed := (r.st.trimWrite (r.trial + step)).measure m r.k
  { trial := if probed.1.toNat < target then r.trial + step else r.trial
    k := r.k + 1
    st := probed.2 }

/-- Step 1, the binary search (R165), from `trial = 0`. -/
def binarySearch (target : Nat) (m : Draws) (s : State) : Search :=
  searchSteps.foldl (searchProbe target m) { trial := 0, k := 0, st := s }

/-- The candidates of the refinement (R167): `trial - 1`, `trial`, `trial + 1` over `int`, ascending, those
outside 0..255 skipped. -/
def candidates (trial : Byte) : List Byte :=
  (([(trial.toNat : Int) - 1, (trial.toNat : Int), (trial.toNat : Int) + 1].filter
    fun c => decide (0 ≤ c ∧ c ≤ 255)).map fun c => BitVec.ofInt 8 c)

/-- `dev < bestDev` (R164). -/
def improves (dev : Nat) : Option Nat → Bool
  | none => true
  | some d => dev < d

/-- One candidate of the refinement (R164, R167): it replaces the best only with a strictly smaller deviation. -/
def refineProbe (target : Nat) (m : Draws) (r : Refinement) (c : Byte) : Refinement :=
  let probed := (r.st.trimWrite c).measure m r.k
  let dev := deviation probed.1 target
  { best := if improves dev r.bestDev then c else r.best
    bestDev := if improves dev r.bestDev then some dev else r.bestDev
    k := r.k + 1
    st := probed.2 }

/-- Step 2, the neighbourhood refinement (R167). Its first candidate always replaces the initial `best`, since
the initial deviation is `+infinity` and `trial` itself is a candidate. -/
def refine (target : Nat) (m : Draws) (f : Search) : Refinement :=
  (candidates f.trial).foldl (refineProbe target m) { best := f.trial, bestDev := none, k := f.k, st := f.st }

/-- The calibration (R164): search, refine, apply (R168), persist (R169), with notifications masked (R173). -/
def calibrate (target : Nat) (m : Draws) (s : State) : State :=
  let r := refine target m (binarySearch target m (s.setInCal true))
  let s := (r.st.trimWrite r.best).nvWrite r.best
  ({ s with calCache := r.best } : State).setInCal false

/-- BUSRESET `m0, ..., m10` (R164); `phase` stays `Polling`. -/
def execBusreset (m : Draws) (s : State) : Host.Outcome State Fault Refusal :=
  .next (sequenced .busreset (fun s => calibrate target m (delivered .busreset s)) s)

end Sys2Proof.Machine
end

