-- ==== Sys2Proof/Machine/Control.lean ====
section
/-! DEFINITION. SETUP and its control requests (`44_control_requests.md`). -/

namespace Sys2Proof.Machine

/-- The shell of every control request (R191): the sequencing check, the delivery, the request's own effect;
`phase` stays `Polling`. -/
def answered (body : State → State) (s : State) : State :=
  sequenced .setup (fun s => body (delivered .setup s)) s

/-- SETUP.GET_REPORT (R192): the two bytes of the Report Buffer as they stand. -/
def execSetupGetReport (r : ClassRequest) (s : State) : Host.Outcome State Fault Refusal :=
  .next (answered (fun s => s.respond r.requestType 0x01 [s.rbuf.id, s.rbuf.code]) s)

/-- SETUP.GET_IDLE (R193). -/
def execSetupGetIdle (r : ClassRequest) (s : State) : Host.Outcome State Fault Refusal :=
  .next (answered (fun s => s.respond r.requestType 0x02 [s.idleRate]) s)

/-- SETUP.GET_PROTOCOL (R195). -/
def execSetupGetProtocol (r : ClassRequest) (s : State) : Host.Outcome State Fault Refusal :=
  .next (answered (fun s => s.respond r.requestType 0x03 [s.protocolVersion]) s)

/-- SETUP.SET_IDLE (R194): `idleRate <- wValue[15:8]`, any byte. -/
def execSetupSetIdle (r : ClassRequest) (s : State) : Host.Outcome State Fault Refusal :=
  .next (answered
    (fun s => ({ s with idleRate := highByte r.wValue } : State).respond r.requestType 0x0A []) s)

/-- SETUP.SET_PROTOCOL (R196): `protocolVersion <- wValue[7:0]`, any byte. -/
def execSetupSetProtocol (r : ClassRequest) (s : State) : Host.Outcome State Fault Refusal :=
  .next (answered
    (fun s => ({ s with protocolVersion := lowByte r.wValue } : State).respond r.requestType 0x0B []) s)

/-- SETUP.UNHANDLED (R197): a response of length 0, no field changes; not a fault (R210). -/
def execSetupUnhandled (pkt : SetupPacket) (s : State) : Host.Outcome State Fault Refusal :=
  .next (answered (fun s => s.respond pkt.bmRequestType pkt.bRequest []) s)

/-- SETUP (R191): the packet's word selects the request (R84), and the request is answered. -/
def execSetup (pkt : SetupPacket) (s : State) : Host.Outcome State Fault Refusal :=
  match requestOf pkt with
  | .setupGetReport r => execSetupGetReport r s
  | .setupGetIdle r => execSetupGetIdle r s
  | .setupGetProtocol r => execSetupGetProtocol r s
  | .setupSetIdle r => execSetupSetIdle r s
  | .setupSetProtocol r => execSetupSetProtocol r s
  | _ => execSetupUnhandled pkt s

end Sys2Proof.Machine
end

