-- ==== Sys2Proof/Machine/Loop.lean ====
section
/-! DEFINITION. POLL (`40_polling_loop.md`). -/

namespace Sys2Proof.Machine

/-- POLL (R101): `phase <- Polling`; the transport's own housekeeping has no effect on the block. -/
def execPoll (s : State) : Host.Outcome State Fault Refusal :=
  .next (sequenced .poll (fun s => s.setPhase .polling) s)

end Sys2Proof.Machine
end

