-- ==== Sys2Proof/Machine/Sampler.lean ====
section
/-! DEFINITION. SAMPLE (`41_sampler_latch.md`). -/

namespace Sys2Proof.Machine

/-- A key is latched (R122): its keycode, the counter back to 0, the latch to `PendingSend`. -/
def State.latchKey (s : State) (b : Binding) : State :=
  { s with lastKey := keycode b, debounce := 0, latch := .pendingSend }

/-- The sampler in `Idle` (R120 to R122): the counter advances first, then is tested; saturated, the first
asserted binding of the scan order latches. -/
def sampleIdle (order : ScanOrder) (p : Byte) (s : State) : State :=
  let s := { s with debounce := satInc8 s.debounce }
  if s.debounce = debounceMax then
    match winner order p with
    | some b => s.latchKey b
    | none => s
  else s

/-- The sampler (R121); outside `Idle` the pins are not looked at and no field changes (R123). -/
def samplePins (order : ScanOrder) (p : Byte) (s : State) : State :=
  match s.latch with
  | .idle => sampleIdle order p s
  | .pendingSend => s
  | .pendingRelease => s

/-- SAMPLE `P` (R121). -/
def execSample (p : Byte) (s : State) : Host.Outcome State Fault Refusal :=
  .next (sequenced .sample
    (unreserved .sample p (pinReservedSet p) fun s => (samplePins Config.scanOrder p s).setPhase .sampled) s)

end Sys2Proof.Machine
end

