-- ==== Sys2Proof/Machine/Scheduler.lean ====
section
/-! DEFINITION. SCHED (`42_report_scheduler.md`). -/

namespace Sys2Proof.Machine

/-- The press leg (R142): the buffer takes `(1, lastKey)` and is submitted. -/
def pressLeg (ready : Bool) (s : State) : State :=
  (((s.setRbuf ⟨reportId, s.lastKey⟩).submit ready).setLatch .pendingRelease)

/-- The release leg (R143): the buffer takes `(1, 0)`, is submitted, and is cleared after the submit. -/
def releaseLeg (ready : Bool) (s : State) : State :=
  ((((s.setRbuf ⟨reportId, noKey⟩).submit ready).setRbuf zeroReport).setLatch .idle)

/-- One scheduler step (R141): at most one leg, and only when the transport is ready. -/
def scheduleStep (ready : Bool) (s : State) : State :=
  match s.latch with
  | .idle => s
  | .pendingSend => if ready then pressLeg ready s else s
  | .pendingRelease => if ready then releaseLeg ready s else s

/-- SCHED `Q` (R141). -/
def execSched (q : Byte) (s : State) : Host.Outcome State Fault Refusal :=
  .next (sequenced .sched
    (unreserved .sched q (readyReservedSet q) fun s => (scheduleStep (readyBit q) s).setPhase .awaitPoll) s)

end Sys2Proof.Machine
end

