-- ==== Sys2Proof/Machine/Dispatch.lean ====
section
/-! DEFINITION. One arm per instruction. -/

namespace Sys2Proof.Machine

def exec (i : Instr) (s : State) : Host.Outcome State Fault Refusal :=
  match i with
  | .reset => Sys2Proof.Machine.execReset s
  | .poll => Sys2Proof.Machine.execPoll s
  | .sample p => Sys2Proof.Machine.execSample p s
  | .sched q => Sys2Proof.Machine.execSched q s
  | .busreset m => Sys2Proof.Machine.execBusreset m s
  | .setup pkt => Sys2Proof.Machine.execSetup pkt s
  | .setupGetReport r => Sys2Proof.Machine.execSetupGetReport r s
  | .setupGetIdle r => Sys2Proof.Machine.execSetupGetIdle r s
  | .setupGetProtocol r => Sys2Proof.Machine.execSetupGetProtocol r s
  | .setupSetIdle r => Sys2Proof.Machine.execSetupSetIdle r s
  | .setupSetProtocol r => Sys2Proof.Machine.execSetupSetProtocol r s
  | .setupUnhandled pkt => Sys2Proof.Machine.execSetupUnhandled pkt s

end Sys2Proof.Machine
end

