-- ==== Sys2Proof/Machine/Step.lean ====
section
/-! DEFINITION. One step: the event at the front of the stimulus stream is taken off and executed (R85, R107). -/

namespace Sys2Proof.Machine

/-- One step of the block. The event's bytes are taken off the stream, then it is executed; `RESERVED` and
`TRUNCATED` are refused (R216, R218); with no byte left the run has ended (R107, log 2). -/
def step (s : State) : Host.Outcome State Fault Refusal :=
  match fetch s with
  | .event i rest => exec i (s.consumed rest)
  | .reserved tag rest => .next (takeReserved tag (s.consumed rest))
  | .truncated tag => .next (takeTruncated tag (s.consumed []))
  | .ended => .fault .streamEnded

/-- The instruction of an opcode-table word placed where `step` takes its next event: at the front of the stream
(log 1, log 8). Nothing else changes; in particular `phase`, which the instruction's own sequencing check reads,
stays. -/
def State.withFetchWord (s : State) (nbits w : Nat) : State := s.placed (tableBytes nbits w)

end Sys2Proof.Machine
end

