-- ==== Sys2Proof/Machine/Assembler.lean ====
section
/-! DEFINITION. The assembler of R87 and the pseudo-events of R88, on abstract lines: each line stands for a list
of events, and a program for the bytes of its events. Pseudo-events have no tag of their own. -/

namespace Sys2Proof.Machine

/-- One line: an event (R87) or a pseudo-event (R88). -/
inductive AsmLine where
  | reset
  | poll
  | sample (p : Byte)
  | sched (q : Byte)
  | busreset (m : Draws)
  | setup (pkt : SetupPacket)
  | iter (p q : Byte)
  | repeatIter (n : Nat) (p q : Byte)
  | getReport
  | getIdle
  | setIdle (v : Byte)
  | getProto
  | setProto (v : Byte)
  deriving DecidableEq, Repr

/-- `ITER P, Q` (R88, R104): one loop iteration with no delivery. -/
def iteration (p q : Byte) : List Instr := [.poll, .sample p, .sched q]

/-- `n` copies of a list, one after another. -/
def copies (n : Nat) (is : List Instr) : List Instr :=
  match n with
  | 0 => []
  | n + 1 => is ++ copies n is

/-- The events of a line (R87, R88). -/
def expand : AsmLine → List Instr
  | .reset => [.reset]
  | .poll => [.poll]
  | .sample p => [.sample p]
  | .sched q => [.sched q]
  | .busreset m => [.busreset m]
  | .setup pkt => [.setup pkt]
  | .iter p q => iteration p q
  | .repeatIter n p q => copies n (iteration p q)
  | .getReport => [.setup ⟨0xA1, 0x01, 0x0100, 0, 2⟩]
  | .getIdle => [.setup ⟨0xA1, 0x02, 0, 0, 1⟩]
  | .setIdle v => [.setup ⟨0x21, 0x0A, v.setWidth 16 <<< 8, 0, 0⟩]
  | .getProto => [.setup ⟨0xA1, 0x03, 0, 0, 1⟩]
  | .setProto v => [.setup ⟨0x21, 0x0B, v.setWidth 16, 0, 0⟩]

/-- The bytes of a program (R87). -/
def assemble (lines : List AsmLine) : List Byte := (lines.flatMap expand).flatMap encode

/-- The pin-level names of R88; `&&&` of two names presses both. -/
def pinsNone : Byte := 0b111

/-- `VOLUP` (R88). -/
def pinsVolUp : Byte := 0b110

/-- `MUTE` (R88). -/
def pinsMute : Byte := 0b101

/-- `VOLDOWN` (R88). -/
def pinsVolDown : Byte := 0b011

end Sys2Proof.Machine
end

