-- ==== Sys2Proof/Machine/AsmText.lean ====
section
/-! DEFINITION. The assembler's text syntax (R87, R88): lines of text read as the abstract lines of
`Assembler.lean`. What R87 does not say about the text (which characters are spaces, that mnemonics and names are in
capitals as printed, that an operand too wide for its field is an error) is the model's (DESIGN CHOICE, log 14). -/

namespace Sys2Proof.Machine

/-- The characters skipped around a word. -/
def isBlank (c : Char) : Bool := c = ' ' || c = '\t' || c = '\r'

/-- A word without the blanks around it. -/
def trimBlanks (w : List Char) : List Char := ((w.dropWhile isBlank).reverse.dropWhile isBlank).reverse

/-- A text cut at a separator; a text without one is a single piece. -/
def pieces (sep : Char) : List Char → List (List Char)
  | [] => [[]]
  | c :: cs =>
    if c = sep then [] :: pieces sep cs
    else
      match pieces sep cs with
      | [] => [[c]]
      | w :: ws => (c :: w) :: ws

/-- A digit's value in a base. -/
def digitValue (base : Nat) (c : Char) : Option Nat :=
  let v :=
    if '0' ≤ c && c ≤ '9' then c.toNat - 48
    else if 'a' ≤ c && c ≤ 'f' then c.toNat - 87
    else if 'A' ≤ c && c ≤ 'F' then c.toNat - 55
    else 16
  if v < base then some v else none

/-- A row of digits in a base; at least one digit. -/
def digitsValue (base : Nat) (ds : List Char) : Option Nat :=
  if ds.isEmpty then none
  else ds.foldl (fun acc c => acc.bind fun n => (digitValue base c).map fun d => base * n + d) (some 0)

/-- A number: decimal, `0x` hexadecimal or `0b` binary (R87). -/
def numberValue : List Char → Option Nat
  | '0' :: 'x' :: ds => digitsValue 16 ds
  | '0' :: 'b' :: ds => digitsValue 2 ds
  | ds => digitsValue 10 ds

/-- An operand of a `w`-bit field. -/
def fieldValue (w : Nat) (t : List Char) : Option (BitVec w) :=
  (numberValue (trimBlanks t)).bind fun n => if n < 2 ^ w then some (BitVec.ofNat w n) else none

/-- One pin-level operand: a name of R88 or a number. -/
def pinValue (t : List Char) : Option Byte :=
  let t := trimBlanks t
  if t = "NONE".toList then some pinsNone
  else if t = "VOLUP".toList then some pinsVolUp
  else if t = "MUTE".toList then some pinsMute
  else if t = "VOLDOWN".toList then some pinsVolDown
  else fieldValue 8 t

/-- A pin operand: pin levels joined by `&` (R88). -/
def pinsValue (t : List Char) : Option Byte :=
  (pieces '&' t).foldl (fun acc u => acc.bind fun a => (pinValue u).map fun b => a &&& b) (some 0xFF)

/-- The eleven draws of a BUSRESET line. -/
def drawsValue (ops : List (List Char)) : Option Draws :=
  match ops.mapM (fieldValue 16) with
  | some [m0, m1, m2, m3, m4, m5, m6, m7, m8, m9, m10] => some ⟨m0, m1, m2, m3, m4, m5, m6, m7, m8, m9, m10⟩
  | _ => none

/-- The line of a mnemonic and its operands (R87, R88). -/
def lineOf (mnemonic : List Char) (ops : List (List Char)) : Option AsmLine :=
  if mnemonic = "RESET".toList then (if ops = [] then some .reset else none)
  else if mnemonic = "POLL".toList then (if ops = [] then some .poll else none)
  else if mnemonic = "GETREPORT".toList then (if ops = [] then some .getReport else none)
  else if mnemonic = "GETIDLE".toList then (if ops = [] then some .getIdle else none)
  else if mnemonic = "GETPROTO".toList then (if ops = [] then some .getProto else none)
  else if mnemonic = "BUSRESET".toList then (drawsValue ops).map .busreset
  else
    match ops with
    | [a] =>
      if mnemonic = "SAMPLE".toList then (pinsValue a).map .sample
      else if mnemonic = "SCHED".toList then (fieldValue 8 a).map .sched
      else if mnemonic = "SETIDLE".toList then (fieldValue 8 a).map .setIdle
      else if mnemonic = "SETPROTO".toList then (fieldValue 8 a).map .setProto
      else none
    | [a, b] =>
      if mnemonic = "ITER".toList then (pinsValue a).bind fun p => (fieldValue 8 b).map fun q => .iter p q
      else none
    | [a, b, c] =>
      if mnemonic = "REPEAT".toList then
        (numberValue (trimBlanks a)).bind fun n => (pinsValue b).bind fun p => (fieldValue 8 c).map fun q =>
          .repeatIter n p q
      else none
    | [a, b, c, d, e] =>
      if mnemonic = "SETUP".toList then
        (fieldValue 8 a).bind fun t => (fieldValue 8 b).bind fun r => (fieldValue 16 c).bind fun v =>
          (fieldValue 16 d).bind fun i => (fieldValue 16 e).map fun l => .setup ⟨t, r, v, i, l⟩
      else none
    | _ => none

/-- One line of text: nothing where it is blank or only a comment; none where it is in error. -/
def readLine (t : List Char) : Option (List AsmLine) :=
  let t := trimBlanks (t.takeWhile fun c => c ≠ ';')
  if t = [] then some []
  else
    let mnemonic := t.takeWhile fun c => !isBlank c
    let rest := trimBlanks (t.dropWhile fun c => !isBlank c)
    (lineOf mnemonic (if rest = [] then [] else pieces ',' rest)).map fun l => [l]

/-- A program's text, one event per line (R87). -/
def readProgram (t : List Char) : Option (List AsmLine) := ((pieces '\n' t).mapM readLine).map List.flatten

/-- A program's text to its bytes (R87); none where a line is in error. -/
def assembleText (t : List Char) : Option (List Byte) := (readProgram t).map assemble

end Sys2Proof.Machine
end

