-- ==== Sys2Proof/Safety.lean ====
section
/-! DEFINITION. What the claims are stated in: runs of events, unmarked runs (R219), the iteration grammar (R100),
the invariants that `95_test_vectors.md` section 9 lists, and a description of a calibration that keeps no machine
state (R164 to R172), against which the calibrator is held. -/

namespace Sys2Proof.Machine

/-! ## Runs -/

/-- A list of events executed in order, stopping at the first stop (R60, R107). -/
def runInstrs : List Instr → State → Host.Outcome State Fault Refusal
  | [], s => .next s
  | i :: is, s =>
    match exec i s with
    | .next t => runInstrs is t
    | .fault r => .fault r
    | .refused r => .refused r

/-- The premise of every claim about a run (R219). -/
def Unmarked (s : State) : Prop := s.faults = [] ∧ s.refused = []

/-! ## Refusals and faults of one event -/

/-- The instruction is refused with the mark `m`: it answers a next state in which no field other than `refused` has
changed, and `refused` has gained `m` and nothing else (R215, R217). -/
def RefusedBy (i : Instr) (s : State) (m : RefusalMark) : Prop :=
  ∃ t, exec i s = .next t ∧ { t with refused := s.refused } = s ∧ ∀ x, x ∈ t.refused ↔ x ∈ s.refused ∨ x = m

/-- The fault marks once a notification with this tag is delivered (R213): one more while `inCal = 1`, which no run
reaches between events. -/
def faultsOnDelivery (tag : Byte) (s : State) : List FaultMark :=
  if s.inCal then insertMark (.notifyInCalibration tag) s.faults else s.faults

/-- The state once a control request is answered (R191): the answer is logged, and nothing else has changed but for
the fault mark of R213. -/
def answeredWith (s : State) (bmRequestType bRequest : Byte) (resp : List Byte) : State :=
  { s with faults := faultsOnDelivery 0x05 s, hist := s.hist ++ [.ctrlResp bmRequestType bRequest resp] }

/-! ## The sequencing table and the grammar -/

/-- The events each phase accepts, as R31's table lists them. -/
def admitted : Phase → List EventKind
  | .off => [.reset]
  | .awaitPoll => [.reset, .poll]
  | .polling => [.reset, .busreset, .setup, .sample]
  | .sampled => [.reset, .sched]

/-- Where an accepted event leaves the sequencing register (R31). -/
def phaseAfter : EventKind → Phase
  | .reset => .awaitPoll
  | .poll => .polling
  | .sample => .sampled
  | .sched => .awaitPoll
  | .busreset => .polling
  | .setup => .polling

/-- `delivery` of R100's grammar. -/
def IsDelivery (i : Instr) : Prop := i.kind = .busreset ∨ i.kind = .setup

/-- `iteration ::= POLL { delivery } SAMPLE SCHED` (R100). -/
def IsIteration (l : List Instr) : Prop :=
  ∃ ds p q, (∀ d ∈ ds, IsDelivery d) ∧ l = .poll :: ds ++ [.sample p, .sched q]

/-- An iteration of R100 in which the transport is ready and the pin of binding `b` is asserted, whatever the other
pins do and whatever is delivered. -/
def IsHeldIteration (b : Binding) (l : List Instr) : Prop :=
  ∃ ds p, (∀ d ∈ ds, IsDelivery d) ∧ p.extractLsb' 3 5 = 0 ∧ asserted p b = true ∧
    l = .poll :: ds ++ [.sample p, .sched 1]

/-- `partial ::= POLL { delivery } [ SAMPLE ]` (R100), or nothing. -/
def IsPartial (l : List Instr) : Prop :=
  l = [] ∨ ∃ ds, (∀ d ∈ ds, IsDelivery d) ∧ (l = .poll :: ds ∨ ∃ p, l = .poll :: ds ++ [.sample p])

/-- `body ::= { iteration } [ partial ]` (R100). -/
def IsBody (l : List Instr) : Prop :=
  ∃ (its : List (List Instr)) (part : List Instr), (∀ it ∈ its, IsIteration it) ∧ IsPartial part ∧ l = its.flatten ++ part

/-- `stream ::= { RESET body }` (R100). -/
def InGrammar (l : List Instr) : Prop :=
  ∃ bodies : List (List Instr), (∀ b ∈ bodies, IsBody b) ∧ l = bodies.flatMap fun b => .reset :: b

/-- `t` agrees with `s` in every field that an accepted delivery leaves alone (R174, R199): in all but the calibration
fields, the two HID registers, the fault marks and `hist`. -/
structure KeepsPipeline (s t : State) : Prop where
  latch : t.latch = s.latch
  debounce : t.debounce = s.debounce
  lastKey : t.lastKey = s.lastKey
  rbuf : t.rbuf = s.rbuf
  phase : t.phase = s.phase
  refused : t.refused = s.refused
  txLog : t.txLog = s.txLog
  stream : t.stream = s.stream

/-! ## Invariants between events (`95_test_vectors.md` section 9) -/

/-- The Report Buffer is fixed by the Latch State (R25). -/
def BufferFollowsLatch (s : State) : Prop :=
  (s.latch = .pendingRelease → s.rbuf = ⟨0x01, s.lastKey⟩) ∧ (s.latch ≠ .pendingRelease → s.rbuf = ⟨0x00, 0x00⟩)

/-- The counter does not move in the send phase: it is 0 there (R120, R121). -/
def CounterRestsInSendPhase (s : State) : Prop := s.latch ≠ .idle → s.debounce = 0

/-- `lastKey` holds a bound keycode or 0, and a bound keycode in the send phase (R23). -/
def KeyIsBound (s : State) : Prop :=
  s.lastKey ∈ [0x00, 0xE9, 0xE3, 0xEA] ∧ (s.latch ≠ .idle → s.lastKey ≠ 0x00)

/-- Every submitted report has report ID 1 and a usage code of R75. -/
def ReportsAreLegal (s : State) : Prop := ∀ r ∈ s.txLog, r.id = 0x01 ∧ r.code ∈ [0xE9, 0xEA, 0xE3, 0x00]

/-- What holds between any two events of a run (R23, R25, R33, R75, R211). -/
structure BlockInv (s : State) : Prop where
  buffer : BufferFollowsLatch s
  counter : CounterRestsInSendPhase s
  key : KeyIsBound s
  unmasked : s.inCal = false
  faultless : s.faults = []
  noRepeats : s.refused.Nodup
  reports : ReportsAreLegal s

/-- A press with keycode `k` and its release (R147). -/
def pressRelease (k : Byte) : List Report := [⟨0x01, k⟩, ⟨0x01, 0x00⟩]

/-- The reports after the first `n` of `txLog` are press-release pairs, and one unpaired press of `lastKey` more
exactly in `PendingRelease` (R147). The reports since the last RESET are meant (log 11). -/
def PairedFrom (n : Nat) (s : State) : Prop :=
  ∃ ks : List Byte, (∀ k ∈ ks, k ∈ [0xE9, 0xE3, 0xEA]) ∧
    s.txLog.drop n = ks.flatMap pressRelease ++ (if s.latch = .pendingRelease then [⟨0x01, s.lastKey⟩] else []) ∧
    n ≤ s.txLog.length

/-! ## A calibration, described without machine state (R164 to R172) -/

/-- `trial` before the `k`-th probe of the binary search: the sum of the steps kept so far (R165, R166). -/
def trialBefore (target : Nat) (m : Draws) : Nat → Nat
  | 0 => 0
  | k + 1 => trialBefore target m k + (if (drawAt m k).toNat < target then 2 ^ (7 - k) else 0)

/-- The binary-search result. -/
def trialOf (target : Nat) (m : Draws) : Nat := trialBefore target m 8

/-- The candidates of the refinement: the values at most 1 from `trial`, in range, ascending (R167). -/
def windowOf (trial : Nat) : List Nat :=
  if trial = 0 then [0, 1] else if trial = 255 then [254, 255] else [trial - 1, trial, trial + 1]

/-- The log of one probe: a trim write and a measurement at that trim (R163, R162). -/
def probeLog (c : Nat) (x : Half) : List HistEntry := [.trimWrite (BitVec.ofNat 8 c), .measure (BitVec.ofNat 8 c) x]

/-- The log of the eight probes of step 1. -/
def searchLog (target : Nat) (m : Draws) : List HistEntry :=
  (List.range 8).flatMap fun k => probeLog (trialBefore target m k + 2 ^ (7 - k)) (drawAt m k)

/-- The log of the two or three probes of step 2. -/
def refineLog (m : Draws) (window : List Nat) : List HistEntry :=
  (window.zipIdx 8).flatMap fun ck => probeLog ck.1 (drawAt m ck.2)

/-- The interface events of a whole calibration that ends with `best` (R164). -/
def calibrationLog (target : Nat) (m : Draws) (best : Byte) : List HistEntry :=
  searchLog target m ++ refineLog m (windowOf (trialOf target m)) ++ [.trimWrite best, .nvWrite Config.calAddr best]

/-- The deviation of candidate number `j`, whose draw is `m_(8+j)` (R167). -/
def candidateDev (target : Nat) (m : Draws) (j : Nat) : Nat := deviation (drawAt m (8 + j)) target

/-- `best` is the first candidate with the smallest deviation (R167). -/
def IsBest (target : Nat) (m : Draws) (best : Byte) : Prop :=
  ∃ j, (windowOf (trialOf target m))[j]? = some best.toNat ∧
    (∀ i < (windowOf (trialOf target m)).length, candidateDev target m j ≤ candidateDev target m i) ∧
    (∀ i < j, candidateDev target m j < candidateDev target m i)

/-- Every measurement in a piece of `hist` is the value of a frame function at the trim under measurement
(R170). -/
def MeasuredBy (f : Byte → Half) (l : List HistEntry) : Prop :=
  ∀ tr x, HistEntry.measure tr x ∈ l → x = f tr

/-- Monotonically non-decreasing in the trim value (R170). -/
def MonotoneFrame (f : Byte → Half) : Prop := ∀ a b : Byte, a.toNat ≤ b.toNat → (f a).toNat ≤ (f b).toNat

end Sys2Proof.Machine
end

