-- ==== Sys2Proof/Certificates/Slice0/Obligations.lean ====
section
/-! DEFINITION. The statements about the block, for the provers. `OBLIGATIONS.json` lists them with their rules. A
record update in a conclusion says the whole frame: every field it does not name is unchanged. Open parameters
(R10) stand as the opaque constants of Config. -/

open Sys2Proof Sys2Proof.Machine

/-! ## Encoding -/

/-- R70 to R74, R81, R87: every event, well-formed or not, decodes from its bytes, whatever follows them. -/
def Obligations.EventsRoundTrip : Prop :=
  ∀ (i : Instr) (rest : List Byte), i.isEvent = true → decode (encode i ++ rest) = .event i rest

/-- The other direction: what the decoder reads as an event is exactly the bytes it took, so no bit is dropped. -/
def Obligations.DecodedEventsReencode : Prop :=
  ∀ (bs rest : List Byte) (i : Instr), decode bs = .event i rest → i.isEvent = true ∧ encode i ++ rest = bs

/-- R81 to R84: every well-formed control request is the one its packet selects, and its bytes are those of the
SETUP that carries the packet; every packet selects a well-formed control request that gives the packet back. -/
def Obligations.RequestsRoundTrip : Prop :=
  (∀ i : Instr, i.isEvent = false → i.wf = true →
    ∃ pkt, i.packet? = some pkt ∧ requestOf pkt = i ∧ encode i = encode (.setup pkt)) ∧
  (∀ pkt : SetupPacket, (requestOf pkt).packet? = some pkt ∧ (requestOf pkt).wf = true ∧
    (requestOf pkt).isEvent = false)

/-- R83, R84: which packets select which request, by type field and request code. -/
def Obligations.RequestCodesSelect : Prop :=
  ∀ pkt : SetupPacket,
    ((∃ r, requestOf pkt = .setupGetReport r) ↔ pkt.bmRequestType.extractLsb' 5 2 = 0b01 ∧ pkt.bRequest = 0x01) ∧
    ((∃ r, requestOf pkt = .setupGetIdle r) ↔ pkt.bmRequestType.extractLsb' 5 2 = 0b01 ∧ pkt.bRequest = 0x02) ∧
    ((∃ r, requestOf pkt = .setupGetProtocol r) ↔ pkt.bmRequestType.extractLsb' 5 2 = 0b01 ∧ pkt.bRequest = 0x03) ∧
    ((∃ r, requestOf pkt = .setupSetIdle r) ↔ pkt.bmRequestType.extractLsb' 5 2 = 0b01 ∧ pkt.bRequest = 0x0A) ∧
    ((∃ r, requestOf pkt = .setupSetProtocol r) ↔ pkt.bmRequestType.extractLsb' 5 2 = 0b01 ∧ pkt.bRequest = 0x0B) ∧
    (requestOf pkt = .setupUnhandled pkt ↔
      ¬ (pkt.bmRequestType.extractLsb' 5 2 = 0b01 ∧ pkt.bRequest ∈ [0x01, 0x02, 0x03, 0x0A, 0x0B]))

/-- DEC-1 to DEC-6 of `95_test_vectors.md`: words written out from the encodings. -/
def Obligations.WordsDecodeAsTheSpecSays : Prop :=
  decode [0x00] = .event .reset [] ∧ decode [0x01] = .event .poll [] ∧ decode [0x02, 0x06] = .event (.sample 6) [] ∧
  decode [0x03, 0x01] = .event (.sched 1) [] ∧
  decode [0x05, 0xA1, 0x01, 0x00, 0x01, 0x00, 0x00, 0x02, 0x00] =
    .event (.setup ⟨0xA1, 0x01, 0x0100, 0x0000, 0x0002⟩) []

/-- R85, R71: the decoder is total: a reserved tag is one byte long; too few operand bytes make a truncated event,
whatever they are; otherwise the event is the tag's, and it takes exactly its length. -/
def Obligations.DecoderIsTotal : Prop :=
  ∀ (t : Byte) (rest : List Byte),
    (0x06 ≤ t.toNat → decode (t :: rest) = .reserved t rest) ∧
    (∀ k : EventKind, t = k.tag →
      (rest.length + 1 < k.length → decode (t :: rest) = .truncated t) ∧
      (k.length ≤ rest.length + 1 → ∃ i, i.kind = k ∧ i.isEvent = true ∧
        decode (t :: rest) = .event i ((t :: rest).drop k.length)))

/-! ## The step -/

/-- Where the bytes at the front of the stream decode to an event, the step is that event's meaning on the state
with the event's bytes taken off the stream, and nothing else done. -/
def Obligations.StepRunsTheDecodedEvent : Prop :=
  ∀ (s : State) (i : Instr) (rest : List Byte),
    decode s.stream = .event i rest → step s = exec i { s with stream := rest }

/-- R216, R218 with the model's reading that no phase changes them (log 10): a reserved tag and a truncated event
are refused by a mark, their bytes are taken off the stream, and nothing else changes. -/
def Obligations.UndecodableBytesAreRefused : Prop :=
  ∀ (s : State) (t : Byte) (rest : List Byte),
    (decode s.stream = .reserved t rest → ∃ u, step s = .next u ∧ u.stream = rest ∧
      { u with refused := s.refused, stream := s.stream } = s ∧
      ∀ m, m ∈ u.refused ↔ m ∈ s.refused ∨ m = .reservedTag t) ∧
    (decode s.stream = .truncated t → ∃ u, step s = .next u ∧ u.stream = [] ∧
      { u with refused := s.refused, stream := s.stream } = s ∧
      ∀ m, m ∈ u.refused ↔ m ∈ s.refused ∨ m = .truncated t)

/-- The model's choice of log 2: the step stops exactly where no byte is left on the stream; on every other stream
it answers a next state. -/
def Obligations.StepStopsOnlyAtTheEnd : Prop :=
  ∀ s : State, (s.stream = [] → step s = .fault .streamEnded) ∧ (s.stream ≠ [] → ∃ t, step s = .next t)

/-- R60, R85: a run of steps over the bytes of a list of events is the run of the events, on the state with those
bytes taken off the stream. The stream field is the model's own (log 1). -/
def Obligations.ByteRunIsEventRun : Prop :=
  ∀ (is : List Instr) (rest : List Byte) (s : State), (∀ i ∈ is, i.isEvent = true) →
    s.stream = is.flatMap encode ++ rest →
    Host.Core.run Sys2Proof.core is.length s = runInstrs is { s with stream := rest }

/-! ## The shell of every event -/

/-- R210, R105: no event traps, blocks or retries: every instruction answers a next state in every state. -/
def Obligations.EveryEventEnds : Prop :=
  ∀ (i : Instr) (s : State), ∃ t, exec i s = .next t

/-- R215: an event that the sequencing register does not accept (the table of R31) is not executed: no field other
than `refused` changes, which gains `OutOfPhase(tag, phase)`. -/
def Obligations.OutOfPhaseIsRefused : Prop :=
  ∀ (i : Instr) (s : State), i.kind ∉ admitted s.phase → RefusedBy i s (.outOfPhase i.kind.tag s.phase)

/-- R217: a SAMPLE or SCHED with reserved operand bits set is not executed; `refused` gains
`ReservedBits(tag, operand)`. The sequencing check comes first (R224). -/
def Obligations.ReservedBitsAreRefused : Prop :=
  (∀ (p : Byte) (s : State), s.phase = .polling → p.extractLsb' 3 5 ≠ 0 →
    RefusedBy (.sample p) s (.reservedBits 0x02 p)) ∧
  (∀ (q : Byte) (s : State), s.phase = .sampled → q.extractLsb' 1 7 ≠ 0 →
    RefusedBy (.sched q) s (.reservedBits 0x03 q))

/-- R31: an accepted, well-formed event moves the sequencing register as R31 says; any other event leaves it. -/
def Obligations.PhaseMovesByTheTable : Prop :=
  ∀ (i : Instr) (s t : State), exec i s = .next t →
    (i.kind ∈ admitted s.phase → (i.isEvent = true → i.wf = true) → t.phase = phaseAfter i.kind) ∧
    (i.kind ∉ admitted s.phase → t.phase = s.phase) ∧
    (i.isEvent = true → i.wf = false → t.phase = s.phase)

/-- R219: no event clears a mark, RESET included. -/
def Obligations.MarksAreSticky : Prop :=
  (∀ (i : Instr) (s t : State), exec i s = .next t → s.faults ⊆ t.faults ∧ s.refused ⊆ t.refused) ∧
  (∀ s t : State, step s = .next t → s.faults ⊆ t.faults ∧ s.refused ⊆ t.refused)

/-- Which events write which field; any other instruction leaves the field unchanged. This is R20's column "written by"
but for two points: RESET writes `inCal` too (R240; log 12), and `hist`, which the column gives to every event, is
written by no POLL, SAMPLE or SCHED (R101, R121, R141). No instruction writes the stream (R63); that field is the
model's own (log 1). -/
def Obligations.FieldsAreWrittenOnlyByTheirEvents : Prop :=
  ∀ (i : Instr) (s t : State), exec i s = .next t →
    (i.kind ∉ [.sample, .sched, .reset] → t.latch = s.latch) ∧
    (i.kind ∉ [.sample, .reset] → t.debounce = s.debounce ∧ t.lastKey = s.lastKey) ∧
    (i.kind ∉ [.sched, .reset] → t.rbuf = s.rbuf) ∧
    (i.kind ∉ [.setup, .reset] → t.idleRate = s.idleRate ∧ t.protocolVersion = s.protocolVersion) ∧
    (i.kind ∉ [.busreset, .reset] → t.trim = s.trim ∧ t.calCache = s.calCache ∧ t.inCal = s.inCal) ∧
    (i.kind ≠ .busreset → t.nvCal = s.nvCal) ∧
    (i.kind ≠ .sched → t.txLog = s.txLog) ∧
    (i.kind ∉ [.busreset, .setup, .reset] → t.hist = s.hist) ∧
    t.stream = s.stream

/-! ## RESET -/

/-- R240: RESET is accepted in every phase and sets every field as the rule says. -/
def Obligations.ResetSetsEveryField : Prop :=
  (∀ rest, decode (0x00 :: rest) = .event .reset rest) ∧
  ∀ s : State, exec .reset s = .next
    { s with
      latch := .idle, debounce := 0x00, lastKey := 0x00, rbuf := ⟨0x00, 0x00⟩, idleRate := 125,
      protocolVersion := 0x00, inCal := false, phase := .awaitPoll, calCache := s.nvCal,
      trim := if s.nvCal = 0xFF then Config.factoryTrim else s.nvCal,
      hist := s.hist ++ (if s.nvCal = 0xFF then [.nvRead Config.calAddr s.nvCal]
        else [.nvRead Config.calAddr s.nvCal, .trimWrite s.nvCal]) }

/-- `State.reset` is what the RESET event leaves of the power-on state (the model's choices there: logs 1, 3). -/
def Obligations.ResetStateIsWhatResetLeaves : Prop :=
  exec .reset State.powerOn = .next State.reset

/-- R249, R176: the boot after a calibration applies the calibrated trim, unless that is 0xFF, which reads as absent
and gives `FACTORY_TRIM`; any events but BUSRESET may come in between, other boots among them. -/
def Obligations.NextBootAppliesTheCalibration : Prop :=
  ∀ (m : Draws) (is : List Instr) (s : State), s.phase = .polling → (∀ i ∈ is, i.kind ≠ .busreset) →
    ∃ t v u, exec (.busreset m) s = .next t ∧ runInstrs is t = .next v ∧ exec .reset v = .next u ∧
      u.calCache = t.trim ∧ u.nvCal = t.trim ∧ u.trim = if t.trim = 0xFF then Config.factoryTrim else t.trim

/-! ## POLL -/

/-- R101: POLL in `AwaitPoll` opens the iteration and changes nothing else; in any other phase it is refused. -/
def Obligations.PollOpensTheIteration : Prop :=
  (∀ rest, decode (0x01 :: rest) = .event .poll rest) ∧
  ∀ s : State,
    (s.phase = .awaitPoll → exec .poll s = .next { s with phase := .polling }) ∧
    (s.phase ≠ .awaitPoll → RefusedBy .poll s (.outOfPhase 0x01 s.phase))

/-! ## SAMPLE -/

/-- R121, R124: SAMPLE, case by case: its encoding, its two refusals, and what an accepted one does. In `Idle` the
counter advances first; saturated with a pin asserted, the first asserted binding of `SCAN_ORDER` latches. -/
def Obligations.SampleDoesWhatItsRuleSays : Prop :=
  (∀ (p : Byte) rest, decode (0x02 :: p :: rest) = .event (.sample p) rest) ∧
  (∀ (p : Byte) (b : Binding), asserted p b = true ↔
    p.getLsbD (match b with | .volumeUp => 0 | .mute => 1 | .volumeDown => 2) = false) ∧
  ∀ (p : Byte) (s : State),
    (s.phase ≠ .polling → RefusedBy (.sample p) s (.outOfPhase 0x02 s.phase)) ∧
    (s.phase = .polling → p.extractLsb' 3 5 ≠ 0 → RefusedBy (.sample p) s (.reservedBits 0x02 p)) ∧
    (s.phase = .polling → p.extractLsb' 3 5 = 0 →
      (s.latch ≠ .idle → exec (.sample p) s = .next { s with phase := .sampled }) ∧
      (s.latch = .idle → s.debounce.toNat < 254 →
        exec (.sample p) s = .next { s with debounce := s.debounce + 1, phase := .sampled }) ∧
      (s.latch = .idle → 254 ≤ s.debounce.toNat → (∀ b, asserted p b = false) →
        exec (.sample p) s = .next { s with debounce := 255, phase := .sampled }) ∧
      (∀ pre b post, s.latch = .idle → 254 ≤ s.debounce.toNat →
        scanBindings Config.scanOrder = pre ++ b :: post → asserted p b = true →
        (∀ c ∈ pre, asserted p c = false) →
        exec (.sample p) s = .next
          { s with
            lastKey := (match b with | .volumeUp => 0xE9 | .mute => 0xE3 | .volumeDown => 0xEA),
            debounce := 0, latch := .pendingSend, phase := .sampled }))

/-- R122: the `Idle` to `PendingSend` transition fires in a SAMPLE exactly when, after the increment, the counter is
255 and a pin is asserted; the key latched is that of the first asserted binding, and the counter is 0 again. -/
def Obligations.LatchFiresExactlyWhenSaturatedAndAsserted : Prop :=
  ∀ (i : Instr) (s t : State), exec i s = .next t → s.latch = .idle →
    (t.latch = .pendingSend ↔ ∃ p, i = .sample p ∧ s.phase = .polling ∧ p.extractLsb' 3 5 = 0 ∧
      254 ≤ s.debounce.toNat ∧ ∃ b, asserted p b = true) ∧
    (t.latch = .pendingSend → t.debounce = 0 ∧ ∃ p, i = .sample p ∧
      ∃ pre b post, scanBindings Config.scanOrder = pre ++ b :: post ∧ asserted p b = true ∧
        (∀ c ∈ pre, asserted p c = false) ∧ t.lastKey = keycode b)

/-- R120: the Debounce Counter law, over every instruction: it advances by one, saturating at 255, in an executed
SAMPLE in `Idle` that does not latch; it is 0 after a latch and after RESET; in every other case it is unchanged. -/
def Obligations.DebounceCounterLaw : Prop :=
  ∀ (i : Instr) (s t : State), exec i s = .next t →
    (∀ p, i = .sample p → s.phase = .polling → p.extractLsb' 3 5 = 0 → s.latch = .idle →
      (t.latch = .idle → t.debounce.toNat = min 255 (s.debounce.toNat + 1)) ∧ (t.latch ≠ .idle → t.debounce = 0)) ∧
    (i = .reset → t.debounce = 0) ∧
    ((¬ ∃ p, i = .sample p ∧ s.phase = .polling ∧ p.extractLsb' 3 5 = 0 ∧ s.latch = .idle) → i ≠ .reset →
      t.debounce = s.debounce)

/-- R123: outside `Idle` no SAMPLE changes any field except `phase`, whatever the pins are. -/
def Obligations.SendPhaseIgnoresThePins : Prop :=
  ∀ (p : Byte) (s : State), s.phase = .polling → p.extractLsb' 3 5 = 0 → s.latch ≠ .idle →
    exec (.sample p) s = .next { s with phase := .sampled }

/-! ## SCHED -/

/-- R141 to R144: SCHED: its encoding, its two refusals, and what an accepted one does: at most one leg, only with
`Q[0] = 1`; the release leg submits `(1, 0)` and then clears the buffer. -/
def Obligations.SchedDoesWhatItsRuleSays : Prop :=
  (∀ (q : Byte) rest, decode (0x03 :: q :: rest) = .event (.sched q) rest) ∧
  ∀ (q : Byte) (s : State),
    (s.phase ≠ .sampled → RefusedBy (.sched q) s (.outOfPhase 0x03 s.phase)) ∧
    (s.phase = .sampled → q.extractLsb' 1 7 ≠ 0 → RefusedBy (.sched q) s (.reservedBits 0x03 q)) ∧
    (s.phase = .sampled → q.extractLsb' 1 7 = 0 →
      (s.latch = .idle → exec (.sched q) s = .next { s with phase := .awaitPoll }) ∧
      (q.getLsbD 0 = false → exec (.sched q) s = .next { s with phase := .awaitPoll }) ∧
      (s.latch = .pendingSend → q.getLsbD 0 = true → exec (.sched q) s = .next
        { s with rbuf := ⟨0x01, s.lastKey⟩, txLog := s.txLog ++ [⟨0x01, s.lastKey⟩], latch := .pendingRelease,
                 phase := .awaitPoll }) ∧
      (s.latch = .pendingRelease → q.getLsbD 0 = true → exec (.sched q) s = .next
        { s with rbuf := ⟨0x00, 0x00⟩, txLog := s.txLog ++ [⟨0x01, 0x00⟩], latch := .idle, phase := .awaitPoll }))

/-- R145, R146: a report is submitted only by a SCHED whose readiness bit is 1, one at most, and it is the press of
`lastKey` from `PendingSend` or the release from `PendingRelease`. -/
def Obligations.SubmitsOnlyWhenReady : Prop :=
  ∀ (i : Instr) (s t : State), exec i s = .next t → t.txLog ≠ s.txLog →
    ∃ q, i = .sched q ∧ q.getLsbD 0 = true ∧ s.phase = .sampled ∧
      ((s.latch = .pendingSend ∧ t.latch = .pendingRelease ∧ t.txLog = s.txLog ++ [⟨0x01, s.lastKey⟩]) ∨
       (s.latch = .pendingRelease ∧ t.latch = .idle ∧ t.txLog = s.txLog ++ [⟨0x01, 0x00⟩]))

/-! ## BUSRESET -/

/-- R164 to R169: BUSRESET: its encoding, its refusal, and an accepted one, which ends with the trim register, the
store byte and the cache all at the first candidate of smallest deviation, with the whole calibration logged in order,
and with nothing else changed. A delivery while `inCal = 1` (which no run reaches) leaves its fault mark as well (R213,
R224). -/
def Obligations.BusresetCalibratesAndPersists : Prop :=
  (∀ (m : Draws) rest, decode (0x04 :: m.bytes ++ rest) = .event (.busreset m) rest) ∧
  ∀ (m : Draws) (s : State),
    (s.phase ≠ .polling → RefusedBy (.busreset m) s (.outOfPhase 0x04 s.phase)) ∧
    (s.phase = .polling → ∃ best, IsBest target m best ∧ exec (.busreset m) s = .next
      { s with
        trim := best, nvCal := best, calCache := best, inCal := false, faults := faultsOnDelivery 0x04 s,
        hist := s.hist ++ calibrationLog target m best })

/-- R165, R166, at every target: the search makes eight probes, no probe wraps, and every trim value is the result
of some draws (for a target from 1 to 65535: no draw is below 0, and none reaches 65536). -/
def Obligations.SearchNeverWraps : Prop :=
  (∀ (target : Nat) (m : Draws) (s : State),
    (∀ k < 8, trialBefore target m k + 2 ^ (7 - k) ≤ 255) ∧
    (binarySearch target m s).trial.toNat = trialOf target m ∧ (binarySearch target m s).k = 8 ∧
    (binarySearch target m s).st.hist = s.hist ++ searchLog target m) ∧
  (∀ (target : Nat) (s : State) (v : Byte), 0 < target → target < 2 ^ 16 → ∃ m, (binarySearch target m s).trial = v)

/-- R171, R172: a calibration makes 11 measurements when `1 ≤ trial ≤ 254` and 10 when `trial` is 0 or 255, one trim
write more than measurements, and one store write. -/
def Obligations.CalibrationMakesTenOrElevenMeasurements : Prop :=
  ∀ (m : Draws) (s : State), s.phase = .polling →
    ∃ t l, exec (.busreset m) s = .next t ∧ t.hist = s.hist ++ l ∧
      l.countP (fun e => match e with | .measure _ _ => true | _ => false) =
        (if trialOf target m = 0 ∨ trialOf target m = 255 then 10 else 11) ∧
      l.countP (fun e => match e with | .trimWrite _ => true | _ => false) =
        l.countP (fun e => match e with | .measure _ _ => true | _ => false) + 1 ∧
      l.countP (fun e => match e with | .nvWrite _ _ => true | _ => false) = 1

/-- R170: where every measurement of the calibration is the value of a monotone frame function at the trim under
measurement, the result of step 1 (`trialOf`, which SearchNeverWraps shows to be the search's) is the last trim below
the target, and the final trim is the first candidate of smallest deviation among the trims at most 1 from there. -/
def Obligations.CalibrationConverges : Prop :=
  ∀ (f : Byte → Half) (m : Draws) (s t : State) (l : List HistEntry), s.phase = .polling → MonotoneFrame f →
    exec (.busreset m) s = .next t → t.hist = s.hist ++ l → MeasuredBy f l →
    let trial := trialOf target m
    (binarySearch target m s).trial.toNat = trial ∧ trial ≤ 255 ∧
    ((f (BitVec.ofNat 8 trial)).toNat < target ∨ trial = 0) ∧
    (trial = 255 ∨ target ≤ (f (BitVec.ofNat 8 (trial + 1))).toNat) ∧
    t.trim.toNat ≤ trial + 1 ∧ trial ≤ t.trim.toNat + 1 ∧
    (∀ c : Byte, c.toNat ≤ trial + 1 → trial ≤ c.toNat + 1 →
      deviation (f t.trim) target ≤ deviation (f c) target ∧
      (c.toNat < t.trim.toNat → deviation (f t.trim) target < deviation (f c) target))

/-- Under the premise of R170 the result is the closest trim of all 256, not of the three candidates only. -/
def Obligations.CalibrationFindsTheClosestTrim : Prop :=
  ∀ (f : Byte → Half) (m : Draws) (s t : State) (l : List HistEntry), s.phase = .polling → MonotoneFrame f →
    exec (.busreset m) s = .next t → t.hist = s.hist ++ l → MeasuredBy f l →
    ∀ c : Byte, deviation (f t.trim) target ≤ deviation (f c) target

/-- R175: a calibration does not depend on the state it starts from: two accepted BUSRESETs with the same draws end
with the same trim, store byte and cache, and log the same interface events. -/
def Obligations.CalibrationForgetsThePast : Prop :=
  ∀ (m : Draws) (s s' : State), s.phase = .polling → s'.phase = .polling →
    ∃ t t' l, exec (.busreset m) s = .next t ∧ exec (.busreset m) s' = .next t' ∧
      t.trim = t'.trim ∧ t.nvCal = t'.nvCal ∧ t.calCache = t'.calCache ∧ t.hist = s.hist ++ l ∧ t'.hist = s'.hist ++ l

/-- R161: the target is 1499 × F_CPU_HZ / 10 500 000 rounded half up; it is 1713 for 12 MHz and 2356 for 16.5 MHz; it
fits in 16 bits for every frequency up to 458 000 000 and for the block's own (log 5). -/
def Obligations.TargetIsRoundedHalfUp : Prop :=
  target = (1499 * Config.fCpuHz + 5250000) / 10500000 ∧ 0 < Config.fCpuHz ∧ target < 2 ^ 16 ∧
  (∀ hz, hz ≤ 458000000 → targetOf hz < 2 ^ 16) ∧ targetOf 12000000 = 1713 ∧ targetOf 16500000 = 2356

/-! ## SETUP -/

/-- R191: SETUP: its encoding, its refusal, and an accepted one, which answers as its packet's type and request code
say, logs the answer, and changes nothing else. The request codes are the spec's general knowledge (G1, log 13). -/
def Obligations.SetupAnswersItsRequest : Prop :=
  (∀ (pkt : SetupPacket) rest, decode (0x05 :: pkt.bytes ++ rest) = .event (.setup pkt) rest) ∧
  ∀ (pkt : SetupPacket) (s : State),
    (s.phase ≠ .polling → RefusedBy (.setup pkt) s (.outOfPhase 0x05 s.phase)) ∧
    (s.phase = .polling → exec (.setup pkt) s = .next
      (if pkt.bmRequestType.extractLsb' 5 2 = 0b01 then
        if pkt.bRequest = 0x01 then answeredWith s pkt.bmRequestType pkt.bRequest [s.rbuf.id, s.rbuf.code]
        else if pkt.bRequest = 0x02 then answeredWith s pkt.bmRequestType pkt.bRequest [s.idleRate]
        else if pkt.bRequest = 0x03 then answeredWith s pkt.bmRequestType pkt.bRequest [s.protocolVersion]
        else if pkt.bRequest = 0x0A then
          { answeredWith s pkt.bmRequestType pkt.bRequest [] with idleRate := pkt.wValue.extractLsb' 8 8 }
        else if pkt.bRequest = 0x0B then
          { answeredWith s pkt.bmRequestType pkt.bRequest [] with protocolVersion := pkt.wValue.extractLsb' 0 8 }
        else answeredWith s pkt.bmRequestType pkt.bRequest []
      else answeredWith s pkt.bmRequestType pkt.bRequest []))

/-- R84, R191: SETUP means what the control request its packet selects means, in every state. -/
def Obligations.SetupIsTheRequestItSelects : Prop :=
  ∀ (pkt : SetupPacket) (s : State), exec (.setup pkt) s = exec (requestOf pkt) s

/-- R192: GET_REPORT answers the two bytes of the Report Buffer; where the buffer follows the latch (R25) they are
`[1, lastKey]` in `PendingRelease` and `[0, 0]` otherwise. -/
def Obligations.GetReportAnswersTheBuffer : Prop :=
  ∀ (r : ClassRequest) (s : State), s.phase = .polling →
    exec (.setupGetReport r) s = .next (answeredWith s r.requestType 0x01 [s.rbuf.id, s.rbuf.code]) ∧
    (BufferFollowsLatch s → [s.rbuf.id, s.rbuf.code] =
      if s.latch = .pendingRelease then [0x01, s.lastKey] else [0x00, 0x00])

/-- R193, R195: GET_IDLE answers `[idleRate]`, GET_PROTOCOL answers `[protocolVersion]`. -/
def Obligations.GetRequestsAnswerOneByte : Prop :=
  ∀ (r : ClassRequest) (s : State), s.phase = .polling →
    exec (.setupGetIdle r) s = .next (answeredWith s r.requestType 0x02 [s.idleRate]) ∧
    exec (.setupGetProtocol r) s = .next (answeredWith s r.requestType 0x03 [s.protocolVersion])

/-- R194, R196: SET_IDLE stores the high byte of `wValue`, SET_PROTOCOL the low byte, any value; the answer is
empty. Which byte is the spec's general knowledge (G5, log 13). -/
def Obligations.SetRequestsStoreOneByte : Prop :=
  ∀ (r : ClassRequest) (s : State), s.phase = .polling →
    exec (.setupSetIdle r) s = .next
      { answeredWith s r.requestType 0x0A [] with idleRate := r.wValue.extractLsb' 8 8 } ∧
    exec (.setupSetProtocol r) s = .next
      { answeredWith s r.requestType 0x0B [] with protocolVersion := r.wValue.extractLsb' 0 8 }

/-- R197: UNHANDLED: every packet but a class request with one of the five codes gets an answer of length 0, and no
field changes. -/
def Obligations.UnhandledRequestsGetAnEmptyAnswer : Prop :=
  ∀ (pkt : SetupPacket) (s : State), s.phase = .polling →
    exec (.setupUnhandled pkt) s = .next (answeredWith s pkt.bmRequestType pkt.bRequest []) ∧
    (¬ (pkt.bmRequestType.extractLsb' 5 2 = 0b01 ∧ pkt.bRequest ∈ [0x01, 0x02, 0x03, 0x0A, 0x0B]) →
      exec (.setup pkt) s = .next (answeredWith s pkt.bmRequestType pkt.bRequest []))

/-- R213, R224: a BUSRESET or SETUP delivered while `inCal = 1` (which no run reaches) leaves the mark
`NotifyInCalibration(tag)` and runs to its end all the same: the rest of its effect is what it is with the mark
already recorded and `inCal = 0`, but that a SETUP leaves `inCal` as it was. -/
def Obligations.DeliveryInCalibrationIsMarked : Prop :=
  ∀ (i : Instr) (s : State), i.kind = .busreset ∨ i.kind = .setup → s.phase = .polling → s.inCal = true →
    ∃ t u, exec i s = .next t ∧
      exec i { s with inCal := false, faults := insertMark (.notifyInCalibration i.kind.tag) s.faults } = .next u ∧
      .notifyInCalibration i.kind.tag ∈ t.faults ∧ t = { u with inCal := (i.kind = .setup) }

/-! ## The assembler -/

/-- R88: the exact expansion of each pseudo-event, and the pin-level names. -/
def Obligations.PseudoEventsExpand : Prop :=
  (∀ p q : Byte, expand (.iter p q) = [.poll, .sample p, .sched q]) ∧
  (∀ (n : Nat) (p q : Byte), expand (.repeatIter n p q) = (List.replicate n (expand (.iter p q))).flatten) ∧
  assemble [.getReport] = [0x05, 0xA1, 0x01, 0x00, 0x01, 0x00, 0x00, 0x02, 0x00] ∧
  assemble [.getIdle] = [0x05, 0xA1, 0x02, 0x00, 0x00, 0x00, 0x00, 0x01, 0x00] ∧
  assemble [.getProto] = [0x05, 0xA1, 0x03, 0x00, 0x00, 0x00, 0x00, 0x01, 0x00] ∧
  (∀ v : Byte, assemble [.setIdle v] = [0x05, 0x21, 0x0A, 0x00, v, 0x00, 0x00, 0x00, 0x00] ∧
    assemble [.setProto v] = [0x05, 0x21, 0x0B, v, 0x00, 0x00, 0x00, 0x00, 0x00]) ∧
  pinsNone = 0b111 ∧ pinsVolUp = 0b110 ∧ pinsMute = 0b101 ∧ pinsVolDown = 0b011

/-! ## Invariants -/

/-- The invariant of `BlockInv` holds at reset (and at power-on, with the model's values there: log 3). -/
def Obligations.InvariantHoldsAtReset : Prop := BlockInv State.reset ∧ BlockInv State.powerOn

/-- R23, R25, R33, R75, R211: every step keeps the invariant: the buffer follows the latch, the counter rests in the
send phase, the key is a bound one, `inCal` is 0, no fault mark is ever raised, and every report is a legal one. -/
def Obligations.EveryStepKeepsTheInvariant : Prop :=
  ∀ s t : State, BlockInv s → step s = .next t → BlockInv t

/-- R147, read since the last RESET (log 11): every instruction but RESET keeps the reports paired, under the
invariant; RESET starts a new pairing after the reports it finds. -/
def Obligations.ReportsComeInPairs : Prop :=
  (∀ (n : Nat) (i : Instr) (s t : State), BlockInv s → PairedFrom n s → i ≠ .reset → exec i s = .next t →
    PairedFrom n t) ∧
  (∀ s t : State, exec .reset s = .next t → PairedFrom s.txLog.length t)

/-! ## Runs -/

/-- R148: with the transport ready, a latched key is pressed in its own iteration and released in the next, whatever
is delivered there; without a delivery nothing else changes. -/
def Obligations.ReadyTransportPressesThenReleases : Prop :=
  ∀ (ds : List Instr) (p : Byte) (s : State), s.phase = .sampled → s.latch = .pendingSend →
    p.extractLsb' 3 5 = 0 → (∀ d ∈ ds, IsDelivery d) →
    let released : State :=
      { s with latch := .idle, rbuf := ⟨0x00, 0x00⟩, phase := .awaitPoll,
               txLog := s.txLog ++ [⟨0x01, s.lastKey⟩, ⟨0x01, 0x00⟩] }
    ∃ t, runInstrs (.sched 1 :: .poll :: ds ++ [.sample p, .sched 1]) s = .next t ∧
      KeepsPipeline released t ∧ (ds = [] → t = released)

/-- R125: after a latch in one iteration, none of the next 255 iterations latches, whatever the pins, the readiness and
the deliveries are: two latches are at least 256 iterations apart. -/
def Obligations.LatchesAre256IterationsApart : Prop :=
  ∀ (q p : Byte) (its : List (List Instr)) (ds : List Instr) (s u t : State), s.phase = .sampled →
    s.latch = .pendingSend → s.debounce = 0 → its.length ≤ 254 → (∀ it ∈ its, IsIteration it) →
    (∀ d ∈ ds, IsDelivery d) → runInstrs (.sched q :: its.flatten ++ .poll :: ds) s = .next u →
    exec (.sample p) u = .next t → ¬ (u.latch = .idle ∧ t.latch = .pendingSend)

/-- R126: from `Idle` with the counter at `d` (0 after RESET), the first `254 - d` iterations latch nothing and
submit nothing, whatever the pins and the deliveries are, and without a delivery change nothing but the counter; a pin
asserted in the next one latches in it. -/
def Obligations.FirstPressLatchesAtSaturation : Prop :=
  ∀ (its : List (List Instr)) (s : State), s.phase = .awaitPoll → s.latch = .idle →
    (∀ it ∈ its, IsIteration it ∧ ∀ i ∈ it, i.wf = true ∨ i.kind = .setup) → s.debounce.toNat + its.length ≤ 254 →
    let counted : State := { s with debounce := BitVec.ofNat 8 (s.debounce.toNat + its.length) }
    (∃ t, runInstrs its.flatten s = .next t ∧ KeepsPipeline counted t ∧
      ((∀ it ∈ its, ∀ i ∈ it, ¬ IsDelivery i) → t = counted)) ∧
    (s.debounce.toNat + its.length = 254 → ∀ (ds : List Instr) (p : Byte) (b : Binding),
      (∀ d ∈ ds, IsDelivery d) → p.extractLsb' 3 5 = 0 → asserted p b = true →
      ∃ t, runInstrs (its.flatten ++ .poll :: ds ++ [.sample p]) s = .next t ∧ t.latch = .pendingSend ∧ t.debounce = 0)

/-- R127: with one pin asserted throughout, whatever the other pins do, and the transport always ready, the block
latches again exactly 256 iterations after a latch, with one press and one release submitted in between, whatever is
delivered meanwhile. -/
def Obligations.HeldKeyLatchesEvery256Iterations : Prop :=
  ∀ (b : Binding) (its : List (List Instr)) (ds : List Instr) (p : Byte) (s : State), s.phase = .sampled →
    s.latch = .pendingSend → s.debounce = 0 → its.length = 255 → (∀ it ∈ its, IsHeldIteration b it) →
    (∀ d ∈ ds, IsDelivery d) → p.extractLsb' 3 5 = 0 → asserted p b = true →
    ∃ t, runInstrs (.sched 1 :: its.flatten ++ .poll :: ds ++ [.sample p]) s = .next t ∧
      t.phase = .sampled ∧ t.latch = .pendingSend ∧ t.debounce = 0 ∧ t.refused = s.refused ∧
      t.txLog = s.txLog ++ [⟨0x01, s.lastKey⟩, ⟨0x01, 0x00⟩]

/-- R100: a run of well-formed events from `Off` with no refusal mark ends with none exactly when its events are in
the grammar of R100. -/
def Obligations.UnrefusedRunsAreTheGrammar : Prop :=
  ∀ (is : List Instr) (s t : State), s.phase = .off → s.refused = [] →
    (∀ i ∈ is, i.wf = true ∨ i.kind = .setup) → runInstrs is s = .next t → (t.refused = [] ↔ InGrammar is)
end

