-- ==== Sys2Proof/Laws/Decode.lean ====
section
/-! SUPPORT. Small lemmas of the encoding: tags and lengths, fields read back from bytes, and the control
requests. -/

namespace Sys2Proof

/-! ## Tags -/

@[simp] theorem eventOfTag_tag (k : EventKind) : eventOfTag k.tag = some k := by cases k <;> rfl

theorem eventOfTag_eq_some {t : Byte} {k : EventKind} : eventOfTag t = some k ↔ t = k.tag := by
  refine ⟨fun h => ?_, fun h => h ▸ eventOfTag_tag k⟩
  unfold eventOfTag at h
  repeat' split at h
  all_goals cases h <;> assumption

theorem eventOfTag_eq_none {t : Byte} : eventOfTag t = none ↔ 0x06 ≤ t.toNat := by
  revert t; decide

theorem eventKind_length_pos (k : EventKind) : 0 < k.length := by cases k <;> decide

/-! ## Bytes of a u16 -/

theorem append_halves {w : Nat} (x : BitVec (w + w)) : x.extractLsb' w w ++ x.extractLsb' 0 w = x := by
  ext i hi
  simp only [BitVec.getElem_append, BitVec.getElem_extractLsb']
  split
  · simp [BitVec.getLsbD_eq_getElem hi]
  · rw [show w + (i - w) = i by omega, BitVec.getLsbD_eq_getElem hi]

theorem high_half {w : Nat} (a b : BitVec w) : (a ++ b).extractLsb' w w = a := by
  ext i hi
  simp [BitVec.getLsbD_append, BitVec.getLsbD_eq_getElem hi]

theorem low_half {w : Nat} (a b : BitVec w) : (a ++ b).extractLsb' 0 w = b := by
  ext i hi
  simp [BitVec.getLsbD_append, hi]

@[simp] theorem half_of_bytes (x : Half) : x.extractLsb' 8 8 ++ x.extractLsb' 0 8 = x := append_halves (w := 8) x

@[simp] theorem high_of_append (a b : Byte) : BitVec.extractLsb' 8 8 (a ++ b : Half) = a := high_half a b

@[simp] theorem low_of_append (a b : Byte) : BitVec.extractLsb' 0 8 (a ++ b : Half) = b := low_half a b

@[simp] theorem draws_bytes_length (m : Draws) : m.bytes.length = 22 := rfl

@[simp] theorem packet_bytes_length (pkt : SetupPacket) : pkt.bytes.length = 8 := rfl

/-! ## Control requests -/

/-- A class request's type byte has the type field 0b01 and gives its two free fields back (R82). -/
theorem requestType_fields (r : ClassRequest) :
    r.requestType.extractLsb' 5 2 = 0b01 ∧ r.requestType.extractLsb' 7 1 = r.dir ∧
      r.requestType.extractLsb' 0 5 = r.recipient := by
  unfold ClassRequest.requestType
  generalize r.dir = d
  generalize r.recipient = c
  revert d c; decide

/-- A type byte with the type field 0b01 is that of a class request (R82). -/
theorem requestType_of_class (b : Byte) (h : b.extractLsb' 5 2 = 0b01) :
    b.extractLsb' 7 1 ++ 0b01#2 ++ b.extractLsb' 0 5 = b := by
  revert b; decide

/-- The mask of R84 leaves exactly the request code and the type field. -/
theorem word_matches (pkt : SetupPacket) (code : Byte) :
    pkt.word &&& 0xFF60 = code ++ 0x20#8 ↔ pkt.bmRequestType.extractLsb' 5 2 = 0b01 ∧ pkt.bRequest = code := by
  obtain ⟨t, q, _, _, _⟩ := pkt
  have split : (q ++ t : Half) &&& 0xFF60 = q ++ (t &&& 0x60#8) := by
    have h : (q ++ t) &&& (0xFF#8 ++ 0x60#8) = (q &&& 0xFF#8) ++ (t &&& 0x60#8) := BitVec.and_append
    rwa [show q &&& 0xFF#8 = q from BitVec.and_allOnes] at h
  have low : ∀ t : Byte, t &&& 0x60#8 = 0x20#8 ↔ t.extractLsb' 5 2 = 0b01 := by decide
  simp only [SetupPacket.word, split]
  constructor
  · intro h
    have hq : q = code := by simpa using congrArg (BitVec.extractLsb' 8 8) h
    have ht : t &&& 0x60#8 = 0x20#8 := by simpa using congrArg (BitVec.extractLsb' 0 8) h
    exact ⟨(low t).1 ht, hq⟩
  · rintro ⟨ht, rfl⟩
    rw [(low t).2 ht]

/-- Where each row of R84 applies, with its code: the shape every proof about requests splits on. -/
theorem requestOf_eq (pkt : SetupPacket) : requestOf pkt =
    if pkt.bmRequestType.extractLsb' 5 2 = 0b01 then
      if pkt.bRequest = 0x01 then .setupGetReport pkt.classRequest
      else if pkt.bRequest = 0x02 then .setupGetIdle pkt.classRequest
      else if pkt.bRequest = 0x03 then .setupGetProtocol pkt.classRequest
      else if pkt.bRequest = 0x0A then .setupSetIdle pkt.classRequest
      else if pkt.bRequest = 0x0B then .setupSetProtocol pkt.classRequest
      else .setupUnhandled pkt
    else .setupUnhandled pkt := by
  have h1 := word_matches pkt 0x01
  have h2 := word_matches pkt 0x02
  have h3 := word_matches pkt 0x03
  have h4 := word_matches pkt 0x0A
  have h5 := word_matches pkt 0x0B
  rw [show (0x01 : Byte) ++ 0x20#8 = (0x0120 : Half) by decide] at h1
  rw [show (0x02 : Byte) ++ 0x20#8 = (0x0220 : Half) by decide] at h2
  rw [show (0x03 : Byte) ++ 0x20#8 = (0x0320 : Half) by decide] at h3
  rw [show (0x0A : Byte) ++ 0x20#8 = (0x0A20 : Half) by decide] at h4
  rw [show (0x0B : Byte) ++ 0x20#8 = (0x0B20 : Half) by decide] at h5
  unfold requestOf
  simp only [h1, h2, h3, h4, h5]
  by_cases ht : pkt.bmRequestType.extractLsb' 5 2 = 0b01#2 <;> simp [ht]

/-- A class packet is the packet of its class request (R82, R83). -/
theorem packet_classRequest (pkt : SetupPacket) (h : pkt.bmRequestType.extractLsb' 5 2 = 0b01) :
    pkt.classRequest.packet pkt.bRequest = pkt := by
  cases pkt
  simp only [ClassRequest.packet, SetupPacket.classRequest, ClassRequest.requestType] at *
  rw [requestType_of_class _ h]

/-- The class request of a class request's packet is the request itself. -/
theorem classRequest_packet (r : ClassRequest) (code : Byte) : (r.packet code).classRequest = r := by
  have h := requestType_fields r
  cases r
  simp only [ClassRequest.packet, SetupPacket.classRequest] at *
  simp [h]

/-- A packet is that of exactly one row of R84. -/
theorem requestOf_cases (pkt : SetupPacket) :
    (pkt.bmRequestType.extractLsb' 5 2 = 0b01 ∧ pkt.bRequest = 0x01 ∧
        requestOf pkt = .setupGetReport pkt.classRequest) ∨
      (pkt.bmRequestType.extractLsb' 5 2 = 0b01 ∧ pkt.bRequest = 0x02 ∧
        requestOf pkt = .setupGetIdle pkt.classRequest) ∨
      (pkt.bmRequestType.extractLsb' 5 2 = 0b01 ∧ pkt.bRequest = 0x03 ∧
        requestOf pkt = .setupGetProtocol pkt.classRequest) ∨
      (pkt.bmRequestType.extractLsb' 5 2 = 0b01 ∧ pkt.bRequest = 0x0A ∧
        requestOf pkt = .setupSetIdle pkt.classRequest) ∨
      (pkt.bmRequestType.extractLsb' 5 2 = 0b01 ∧ pkt.bRequest = 0x0B ∧
        requestOf pkt = .setupSetProtocol pkt.classRequest) ∨
      (¬ (pkt.bmRequestType.extractLsb' 5 2 = 0b01 ∧ pkt.bRequest ∈ [0x01, 0x02, 0x03, 0x0A, 0x0B]) ∧
        requestOf pkt = .setupUnhandled pkt) := by
  rw [requestOf_eq]
  repeat' split
  all_goals simp_all

end Sys2Proof
end

