-- ==== Sys2Proof/Laws/State.lean ====
section
/-! SUPPORT. What each named update of the state does to each field: one lemma per field per update, so that no
proof unfolds an update. -/

namespace Sys2Proof.Machine

/-! ## `State.raise` -/

@[simp] theorem State.raise_latch (s : State) (m : FaultMark) : (s.raise m).latch = s.latch := rfl
@[simp] theorem State.raise_debounce (s : State) (m : FaultMark) : (s.raise m).debounce = s.debounce := rfl
@[simp] theorem State.raise_lastKey (s : State) (m : FaultMark) : (s.raise m).lastKey = s.lastKey := rfl
@[simp] theorem State.raise_rbuf (s : State) (m : FaultMark) : (s.raise m).rbuf = s.rbuf := rfl
@[simp] theorem State.raise_idleRate (s : State) (m : FaultMark) : (s.raise m).idleRate = s.idleRate := rfl
@[simp] theorem State.raise_protocolVersion (s : State) (m : FaultMark) : (s.raise m).protocolVersion = s.protocolVersion := rfl
@[simp] theorem State.raise_trim (s : State) (m : FaultMark) : (s.raise m).trim = s.trim := rfl
@[simp] theorem State.raise_calCache (s : State) (m : FaultMark) : (s.raise m).calCache = s.calCache := rfl
@[simp] theorem State.raise_nvCal (s : State) (m : FaultMark) : (s.raise m).nvCal = s.nvCal := rfl
@[simp] theorem State.raise_inCal (s : State) (m : FaultMark) : (s.raise m).inCal = s.inCal := rfl
@[simp] theorem State.raise_phase (s : State) (m : FaultMark) : (s.raise m).phase = s.phase := rfl
@[simp] theorem State.raise_faults (s : State) (m : FaultMark) : (s.raise m).faults = insertMark m s.faults := rfl
@[simp] theorem State.raise_refused (s : State) (m : FaultMark) : (s.raise m).refused = s.refused := rfl
@[simp] theorem State.raise_txLog (s : State) (m : FaultMark) : (s.raise m).txLog = s.txLog := rfl
@[simp] theorem State.raise_hist (s : State) (m : FaultMark) : (s.raise m).hist = s.hist := rfl
@[simp] theorem State.raise_stream (s : State) (m : FaultMark) : (s.raise m).stream = s.stream := rfl

/-! ## `State.refuse` -/

@[simp] theorem State.refuse_latch (s : State) (m : RefusalMark) : (s.refuse m).latch = s.latch := rfl
@[simp] theorem State.refuse_debounce (s : State) (m : RefusalMark) : (s.refuse m).debounce = s.debounce := rfl
@[simp] theorem State.refuse_lastKey (s : State) (m : RefusalMark) : (s.refuse m).lastKey = s.lastKey := rfl
@[simp] theorem State.refuse_rbuf (s : State) (m : RefusalMark) : (s.refuse m).rbuf = s.rbuf := rfl
@[simp] theorem State.refuse_idleRate (s : State) (m : RefusalMark) : (s.refuse m).idleRate = s.idleRate := rfl
@[simp] theorem State.refuse_protocolVersion (s : State) (m : RefusalMark) : (s.refuse m).protocolVersion = s.protocolVersion := rfl
@[simp] theorem State.refuse_trim (s : State) (m : RefusalMark) : (s.refuse m).trim = s.trim := rfl
@[simp] theorem State.refuse_calCache (s : State) (m : RefusalMark) : (s.refuse m).calCache = s.calCache := rfl
@[simp] theorem State.refuse_nvCal (s : State) (m : RefusalMark) : (s.refuse m).nvCal = s.nvCal := rfl
@[simp] theorem State.refuse_inCal (s : State) (m : RefusalMark) : (s.refuse m).inCal = s.inCal := rfl
@[simp] theorem State.refuse_phase (s : State) (m : RefusalMark) : (s.refuse m).phase = s.phase := rfl
@[simp] theorem State.refuse_faults (s : State) (m : RefusalMark) : (s.refuse m).faults = s.faults := rfl
@[simp] theorem State.refuse_refused (s : State) (m : RefusalMark) : (s.refuse m).refused = insertMark m s.refused := rfl
@[simp] theorem State.refuse_txLog (s : State) (m : RefusalMark) : (s.refuse m).txLog = s.txLog := rfl
@[simp] theorem State.refuse_hist (s : State) (m : RefusalMark) : (s.refuse m).hist = s.hist := rfl
@[simp] theorem State.refuse_stream (s : State) (m : RefusalMark) : (s.refuse m).stream = s.stream := rfl

/-! ## `State.log` -/

@[simp] theorem State.log_latch (s : State) (e : HistEntry) : (s.log e).latch = s.latch := rfl
@[simp] theorem State.log_debounce (s : State) (e : HistEntry) : (s.log e).debounce = s.debounce := rfl
@[simp] theorem State.log_lastKey (s : State) (e : HistEntry) : (s.log e).lastKey = s.lastKey := rfl
@[simp] theorem State.log_rbuf (s : State) (e : HistEntry) : (s.log e).rbuf = s.rbuf := rfl
@[simp] theorem State.log_idleRate (s : State) (e : HistEntry) : (s.log e).idleRate = s.idleRate := rfl
@[simp] theorem State.log_protocolVersion (s : State) (e : HistEntry) : (s.log e).protocolVersion = s.protocolVersion := rfl
@[simp] theorem State.log_trim (s : State) (e : HistEntry) : (s.log e).trim = s.trim := rfl
@[simp] theorem State.log_calCache (s : State) (e : HistEntry) : (s.log e).calCache = s.calCache := rfl
@[simp] theorem State.log_nvCal (s : State) (e : HistEntry) : (s.log e).nvCal = s.nvCal := rfl
@[simp] theorem State.log_inCal (s : State) (e : HistEntry) : (s.log e).inCal = s.inCal := rfl
@[simp] theorem State.log_phase (s : State) (e : HistEntry) : (s.log e).phase = s.phase := rfl
@[simp] theorem State.log_faults (s : State) (e : HistEntry) : (s.log e).faults = s.faults := rfl
@[simp] theorem State.log_refused (s : State) (e : HistEntry) : (s.log e).refused = s.refused := rfl
@[simp] theorem State.log_txLog (s : State) (e : HistEntry) : (s.log e).txLog = s.txLog := rfl
@[simp] theorem State.log_hist (s : State) (e : HistEntry) : (s.log e).hist = s.hist ++ [e] := rfl
@[simp] theorem State.log_stream (s : State) (e : HistEntry) : (s.log e).stream = s.stream := rfl

/-! ## `State.setPhase` -/

@[simp] theorem State.setPhase_latch (s : State) (p : Phase) : (s.setPhase p).latch = s.latch := rfl
@[simp] theorem State.setPhase_debounce (s : State) (p : Phase) : (s.setPhase p).debounce = s.debounce := rfl
@[simp] theorem State.setPhase_lastKey (s : State) (p : Phase) : (s.setPhase p).lastKey = s.lastKey := rfl
@[simp] theorem State.setPhase_rbuf (s : State) (p : Phase) : (s.setPhase p).rbuf = s.rbuf := rfl
@[simp] theorem State.setPhase_idleRate (s : State) (p : Phase) : (s.setPhase p).idleRate = s.idleRate := rfl
@[simp] theorem State.setPhase_protocolVersion (s : State) (p : Phase) : (s.setPhase p).protocolVersion = s.protocolVersion := rfl
@[simp] theorem State.setPhase_trim (s : State) (p : Phase) : (s.setPhase p).trim = s.trim := rfl
@[simp] theorem State.setPhase_calCache (s : State) (p : Phase) : (s.setPhase p).calCache = s.calCache := rfl
@[simp] theorem State.setPhase_nvCal (s : State) (p : Phase) : (s.setPhase p).nvCal = s.nvCal := rfl
@[simp] theorem State.setPhase_inCal (s : State) (p : Phase) : (s.setPhase p).inCal = s.inCal := rfl
@[simp] theorem State.setPhase_phase (s : State) (p : Phase) : (s.setPhase p).phase = p := rfl
@[simp] theorem State.setPhase_faults (s : State) (p : Phase) : (s.setPhase p).faults = s.faults := rfl
@[simp] theorem State.setPhase_refused (s : State) (p : Phase) : (s.setPhase p).refused = s.refused := rfl
@[simp] theorem State.setPhase_txLog (s : State) (p : Phase) : (s.setPhase p).txLog = s.txLog := rfl
@[simp] theorem State.setPhase_hist (s : State) (p : Phase) : (s.setPhase p).hist = s.hist := rfl
@[simp] theorem State.setPhase_stream (s : State) (p : Phase) : (s.setPhase p).stream = s.stream := rfl

/-! ## `State.setInCal` -/

@[simp] theorem State.setInCal_latch (s : State) (b : Bool) : (s.setInCal b).latch = s.latch := rfl
@[simp] theorem State.setInCal_debounce (s : State) (b : Bool) : (s.setInCal b).debounce = s.debounce := rfl
@[simp] theorem State.setInCal_lastKey (s : State) (b : Bool) : (s.setInCal b).lastKey = s.lastKey := rfl
@[simp] theorem State.setInCal_rbuf (s : State) (b : Bool) : (s.setInCal b).rbuf = s.rbuf := rfl
@[simp] theorem State.setInCal_idleRate (s : State) (b : Bool) : (s.setInCal b).idleRate = s.idleRate := rfl
@[simp] theorem State.setInCal_protocolVersion (s : State) (b : Bool) : (s.setInCal b).protocolVersion = s.protocolVersion := rfl
@[simp] theorem State.setInCal_trim (s : State) (b : Bool) : (s.setInCal b).trim = s.trim := rfl
@[simp] theorem State.setInCal_calCache (s : State) (b : Bool) : (s.setInCal b).calCache = s.calCache := rfl
@[simp] theorem State.setInCal_nvCal (s : State) (b : Bool) : (s.setInCal b).nvCal = s.nvCal := rfl
@[simp] theorem State.setInCal_inCal (s : State) (b : Bool) : (s.setInCal b).inCal = b := rfl
@[simp] theorem State.setInCal_phase (s : State) (b : Bool) : (s.setInCal b).phase = s.phase := rfl
@[simp] theorem State.setInCal_faults (s : State) (b : Bool) : (s.setInCal b).faults = s.faults := rfl
@[simp] theorem State.setInCal_refused (s : State) (b : Bool) : (s.setInCal b).refused = s.refused := rfl
@[simp] theorem State.setInCal_txLog (s : State) (b : Bool) : (s.setInCal b).txLog = s.txLog := rfl
@[simp] theorem State.setInCal_hist (s : State) (b : Bool) : (s.setInCal b).hist = s.hist := rfl
@[simp] theorem State.setInCal_stream (s : State) (b : Bool) : (s.setInCal b).stream = s.stream := rfl

/-! ## `State.setRbuf` -/

@[simp] theorem State.setRbuf_latch (s : State) (r : Report) : (s.setRbuf r).latch = s.latch := rfl
@[simp] theorem State.setRbuf_debounce (s : State) (r : Report) : (s.setRbuf r).debounce = s.debounce := rfl
@[simp] theorem State.setRbuf_lastKey (s : State) (r : Report) : (s.setRbuf r).lastKey = s.lastKey := rfl
@[simp] theorem State.setRbuf_rbuf (s : State) (r : Report) : (s.setRbuf r).rbuf = r := rfl
@[simp] theorem State.setRbuf_idleRate (s : State) (r : Report) : (s.setRbuf r).idleRate = s.idleRate := rfl
@[simp] theorem State.setRbuf_protocolVersion (s : State) (r : Report) : (s.setRbuf r).protocolVersion = s.protocolVersion := rfl
@[simp] theorem State.setRbuf_trim (s : State) (r : Report) : (s.setRbuf r).trim = s.trim := rfl
@[simp] theorem State.setRbuf_calCache (s : State) (r : Report) : (s.setRbuf r).calCache = s.calCache := rfl
@[simp] theorem State.setRbuf_nvCal (s : State) (r : Report) : (s.setRbuf r).nvCal = s.nvCal := rfl
@[simp] theorem State.setRbuf_inCal (s : State) (r : Report) : (s.setRbuf r).inCal = s.inCal := rfl
@[simp] theorem State.setRbuf_phase (s : State) (r : Report) : (s.setRbuf r).phase = s.phase := rfl
@[simp] theorem State.setRbuf_faults (s : State) (r : Report) : (s.setRbuf r).faults = s.faults := rfl
@[simp] theorem State.setRbuf_refused (s : State) (r : Report) : (s.setRbuf r).refused = s.refused := rfl
@[simp] theorem State.setRbuf_txLog (s : State) (r : Report) : (s.setRbuf r).txLog = s.txLog := rfl
@[simp] theorem State.setRbuf_hist (s : State) (r : Report) : (s.setRbuf r).hist = s.hist := rfl
@[simp] theorem State.setRbuf_stream (s : State) (r : Report) : (s.setRbuf r).stream = s.stream := rfl

/-! ## `State.setLatch` -/

@[simp] theorem State.setLatch_latch (s : State) (l : Latch) : (s.setLatch l).latch = l := rfl
@[simp] theorem State.setLatch_debounce (s : State) (l : Latch) : (s.setLatch l).debounce = s.debounce := rfl
@[simp] theorem State.setLatch_lastKey (s : State) (l : Latch) : (s.setLatch l).lastKey = s.lastKey := rfl
@[simp] theorem State.setLatch_rbuf (s : State) (l : Latch) : (s.setLatch l).rbuf = s.rbuf := rfl
@[simp] theorem State.setLatch_idleRate (s : State) (l : Latch) : (s.setLatch l).idleRate = s.idleRate := rfl
@[simp] theorem State.setLatch_protocolVersion (s : State) (l : Latch) : (s.setLatch l).protocolVersion = s.protocolVersion := rfl
@[simp] theorem State.setLatch_trim (s : State) (l : Latch) : (s.setLatch l).trim = s.trim := rfl
@[simp] theorem State.setLatch_calCache (s : State) (l : Latch) : (s.setLatch l).calCache = s.calCache := rfl
@[simp] theorem State.setLatch_nvCal (s : State) (l : Latch) : (s.setLatch l).nvCal = s.nvCal := rfl
@[simp] theorem State.setLatch_inCal (s : State) (l : Latch) : (s.setLatch l).inCal = s.inCal := rfl
@[simp] theorem State.setLatch_phase (s : State) (l : Latch) : (s.setLatch l).phase = s.phase := rfl
@[simp] theorem State.setLatch_faults (s : State) (l : Latch) : (s.setLatch l).faults = s.faults := rfl
@[simp] theorem State.setLatch_refused (s : State) (l : Latch) : (s.setLatch l).refused = s.refused := rfl
@[simp] theorem State.setLatch_txLog (s : State) (l : Latch) : (s.setLatch l).txLog = s.txLog := rfl
@[simp] theorem State.setLatch_hist (s : State) (l : Latch) : (s.setLatch l).hist = s.hist := rfl
@[simp] theorem State.setLatch_stream (s : State) (l : Latch) : (s.setLatch l).stream = s.stream := rfl

/-! ## `State.nvWrite` -/

@[simp] theorem State.nvWrite_latch (s : State) (v : Byte) : (s.nvWrite v).latch = s.latch := rfl
@[simp] theorem State.nvWrite_debounce (s : State) (v : Byte) : (s.nvWrite v).debounce = s.debounce := rfl
@[simp] theorem State.nvWrite_lastKey (s : State) (v : Byte) : (s.nvWrite v).lastKey = s.lastKey := rfl
@[simp] theorem State.nvWrite_rbuf (s : State) (v : Byte) : (s.nvWrite v).rbuf = s.rbuf := rfl
@[simp] theorem State.nvWrite_idleRate (s : State) (v : Byte) : (s.nvWrite v).idleRate = s.idleRate := rfl
@[simp] theorem State.nvWrite_protocolVersion (s : State) (v : Byte) : (s.nvWrite v).protocolVersion = s.protocolVersion := rfl
@[simp] theorem State.nvWrite_trim (s : State) (v : Byte) : (s.nvWrite v).trim = s.trim := rfl
@[simp] theorem State.nvWrite_calCache (s : State) (v : Byte) : (s.nvWrite v).calCache = s.calCache := rfl
@[simp] theorem State.nvWrite_nvCal (s : State) (v : Byte) : (s.nvWrite v).nvCal = v := rfl
@[simp] theorem State.nvWrite_inCal (s : State) (v : Byte) : (s.nvWrite v).inCal = s.inCal := rfl
@[simp] theorem State.nvWrite_phase (s : State) (v : Byte) : (s.nvWrite v).phase = s.phase := rfl
@[simp] theorem State.nvWrite_faults (s : State) (v : Byte) : (s.nvWrite v).faults = s.faults := rfl
@[simp] theorem State.nvWrite_refused (s : State) (v : Byte) : (s.nvWrite v).refused = s.refused := rfl
@[simp] theorem State.nvWrite_txLog (s : State) (v : Byte) : (s.nvWrite v).txLog = s.txLog := rfl
@[simp] theorem State.nvWrite_hist (s : State) (v : Byte) : (s.nvWrite v).hist = s.hist ++ [.nvWrite Config.calAddr v] := rfl
@[simp] theorem State.nvWrite_stream (s : State) (v : Byte) : (s.nvWrite v).stream = s.stream := rfl

/-! ## `State.trimWrite` -/

@[simp] theorem State.trimWrite_latch (s : State) (v : Byte) : (s.trimWrite v).latch = s.latch := rfl
@[simp] theorem State.trimWrite_debounce (s : State) (v : Byte) : (s.trimWrite v).debounce = s.debounce := rfl
@[simp] theorem State.trimWrite_lastKey (s : State) (v : Byte) : (s.trimWrite v).lastKey = s.lastKey := rfl
@[simp] theorem State.trimWrite_rbuf (s : State) (v : Byte) : (s.trimWrite v).rbuf = s.rbuf := rfl
@[simp] theorem State.trimWrite_idleRate (s : State) (v : Byte) : (s.trimWrite v).idleRate = s.idleRate := rfl
@[simp] theorem State.trimWrite_protocolVersion (s : State) (v : Byte) : (s.trimWrite v).protocolVersion = s.protocolVersion := rfl
@[simp] theorem State.trimWrite_trim (s : State) (v : Byte) : (s.trimWrite v).trim = v := rfl
@[simp] theorem State.trimWrite_calCache (s : State) (v : Byte) : (s.trimWrite v).calCache = s.calCache := rfl
@[simp] theorem State.trimWrite_nvCal (s : State) (v : Byte) : (s.trimWrite v).nvCal = s.nvCal := rfl
@[simp] theorem State.trimWrite_inCal (s : State) (v : Byte) : (s.trimWrite v).inCal = s.inCal := rfl
@[simp] theorem State.trimWrite_phase (s : State) (v : Byte) : (s.trimWrite v).phase = s.phase := rfl
@[simp] theorem State.trimWrite_faults (s : State) (v : Byte) : (s.trimWrite v).faults = s.faults := rfl
@[simp] theorem State.trimWrite_refused (s : State) (v : Byte) : (s.trimWrite v).refused = s.refused := rfl
@[simp] theorem State.trimWrite_txLog (s : State) (v : Byte) : (s.trimWrite v).txLog = s.txLog := rfl
@[simp] theorem State.trimWrite_hist (s : State) (v : Byte) : (s.trimWrite v).hist = s.hist ++ [.trimWrite v] := rfl
@[simp] theorem State.trimWrite_stream (s : State) (v : Byte) : (s.trimWrite v).stream = s.stream := rfl

/-! ## `State.latchKey` -/

@[simp] theorem State.latchKey_latch (s : State) (b : Binding) : (s.latchKey b).latch = .pendingSend := rfl
@[simp] theorem State.latchKey_debounce (s : State) (b : Binding) : (s.latchKey b).debounce = 0 := rfl
@[simp] theorem State.latchKey_lastKey (s : State) (b : Binding) : (s.latchKey b).lastKey = keycode b := rfl
@[simp] theorem State.latchKey_rbuf (s : State) (b : Binding) : (s.latchKey b).rbuf = s.rbuf := rfl
@[simp] theorem State.latchKey_idleRate (s : State) (b : Binding) : (s.latchKey b).idleRate = s.idleRate := rfl
@[simp] theorem State.latchKey_protocolVersion (s : State) (b : Binding) : (s.latchKey b).protocolVersion = s.protocolVersion := rfl
@[simp] theorem State.latchKey_trim (s : State) (b : Binding) : (s.latchKey b).trim = s.trim := rfl
@[simp] theorem State.latchKey_calCache (s : State) (b : Binding) : (s.latchKey b).calCache = s.calCache := rfl
@[simp] theorem State.latchKey_nvCal (s : State) (b : Binding) : (s.latchKey b).nvCal = s.nvCal := rfl
@[simp] theorem State.latchKey_inCal (s : State) (b : Binding) : (s.latchKey b).inCal = s.inCal := rfl
@[simp] theorem State.latchKey_phase (s : State) (b : Binding) : (s.latchKey b).phase = s.phase := rfl
@[simp] theorem State.latchKey_faults (s : State) (b : Binding) : (s.latchKey b).faults = s.faults := rfl
@[simp] theorem State.latchKey_refused (s : State) (b : Binding) : (s.latchKey b).refused = s.refused := rfl
@[simp] theorem State.latchKey_txLog (s : State) (b : Binding) : (s.latchKey b).txLog = s.txLog := rfl
@[simp] theorem State.latchKey_hist (s : State) (b : Binding) : (s.latchKey b).hist = s.hist := rfl
@[simp] theorem State.latchKey_stream (s : State) (b : Binding) : (s.latchKey b).stream = s.stream := rfl

/-! ## `State.consumed` -/

@[simp] theorem State.consumed_latch (s : State) (bs : List Byte) : (s.consumed bs).latch = s.latch := rfl
@[simp] theorem State.consumed_debounce (s : State) (bs : List Byte) : (s.consumed bs).debounce = s.debounce := rfl
@[simp] theorem State.consumed_lastKey (s : State) (bs : List Byte) : (s.consumed bs).lastKey = s.lastKey := rfl
@[simp] theorem State.consumed_rbuf (s : State) (bs : List Byte) : (s.consumed bs).rbuf = s.rbuf := rfl
@[simp] theorem State.consumed_idleRate (s : State) (bs : List Byte) : (s.consumed bs).idleRate = s.idleRate := rfl
@[simp] theorem State.consumed_protocolVersion (s : State) (bs : List Byte) : (s.consumed bs).protocolVersion = s.protocolVersion := rfl
@[simp] theorem State.consumed_trim (s : State) (bs : List Byte) : (s.consumed bs).trim = s.trim := rfl
@[simp] theorem State.consumed_calCache (s : State) (bs : List Byte) : (s.consumed bs).calCache = s.calCache := rfl
@[simp] theorem State.consumed_nvCal (s : State) (bs : List Byte) : (s.consumed bs).nvCal = s.nvCal := rfl
@[simp] theorem State.consumed_inCal (s : State) (bs : List Byte) : (s.consumed bs).inCal = s.inCal := rfl
@[simp] theorem State.consumed_phase (s : State) (bs : List Byte) : (s.consumed bs).phase = s.phase := rfl
@[simp] theorem State.consumed_faults (s : State) (bs : List Byte) : (s.consumed bs).faults = s.faults := rfl
@[simp] theorem State.consumed_refused (s : State) (bs : List Byte) : (s.consumed bs).refused = s.refused := rfl
@[simp] theorem State.consumed_txLog (s : State) (bs : List Byte) : (s.consumed bs).txLog = s.txLog := rfl
@[simp] theorem State.consumed_hist (s : State) (bs : List Byte) : (s.consumed bs).hist = s.hist := rfl
@[simp] theorem State.consumed_stream (s : State) (bs : List Byte) : (s.consumed bs).stream = bs := rfl

/-! ## `State.placed` -/

@[simp] theorem State.placed_latch (s : State) (bs : List Byte) : (s.placed bs).latch = s.latch := rfl
@[simp] theorem State.placed_debounce (s : State) (bs : List Byte) : (s.placed bs).debounce = s.debounce := rfl
@[simp] theorem State.placed_lastKey (s : State) (bs : List Byte) : (s.placed bs).lastKey = s.lastKey := rfl
@[simp] theorem State.placed_rbuf (s : State) (bs : List Byte) : (s.placed bs).rbuf = s.rbuf := rfl
@[simp] theorem State.placed_idleRate (s : State) (bs : List Byte) : (s.placed bs).idleRate = s.idleRate := rfl
@[simp] theorem State.placed_protocolVersion (s : State) (bs : List Byte) : (s.placed bs).protocolVersion = s.protocolVersion := rfl
@[simp] theorem State.placed_trim (s : State) (bs : List Byte) : (s.placed bs).trim = s.trim := rfl
@[simp] theorem State.placed_calCache (s : State) (bs : List Byte) : (s.placed bs).calCache = s.calCache := rfl
@[simp] theorem State.placed_nvCal (s : State) (bs : List Byte) : (s.placed bs).nvCal = s.nvCal := rfl
@[simp] theorem State.placed_inCal (s : State) (bs : List Byte) : (s.placed bs).inCal = s.inCal := rfl
@[simp] theorem State.placed_phase (s : State) (bs : List Byte) : (s.placed bs).phase = s.phase := rfl
@[simp] theorem State.placed_faults (s : State) (bs : List Byte) : (s.placed bs).faults = s.faults := rfl
@[simp] theorem State.placed_refused (s : State) (bs : List Byte) : (s.placed bs).refused = s.refused := rfl
@[simp] theorem State.placed_txLog (s : State) (bs : List Byte) : (s.placed bs).txLog = s.txLog := rfl
@[simp] theorem State.placed_hist (s : State) (bs : List Byte) : (s.placed bs).hist = s.hist := rfl
@[simp] theorem State.placed_stream (s : State) (bs : List Byte) : (s.placed bs).stream = bs ++ s.stream := rfl

end Sys2Proof.Machine
end

