-- ==== Sys2Proof/Laws/Ops.lean ====
section
/-! SUPPORT. One lemma per shared operation, saying everything it can do. -/

namespace Sys2Proof.Machine

/-! ## Sets of marks -/

@[simp] theorem mem_insertMark {α : Type} [DecidableEq α] (m x : α) (l : List α) :
    x ∈ insertMark m l ↔ x ∈ l ∨ x = m := by
  unfold insertMark
  split
  · exact ⟨.inl, fun h => h.elim id fun e => e ▸ ‹m ∈ l›⟩
  · simp

theorem subset_insertMark {α : Type} [DecidableEq α] (m : α) (l : List α) : l ⊆ insertMark m l :=
  fun _ h => (mem_insertMark ..).2 (.inl h)

theorem insertMark_ne_nil {α : Type} [DecidableEq α] (m : α) (l : List α) : insertMark m l ≠ [] :=
  fun h => by simpa [h] using mem_insertMark m m l

theorem nodup_insertMark {α : Type} [DecidableEq α] (m : α) {l : List α} (h : l.Nodup) :
    (insertMark m l).Nodup := by
  unfold insertMark
  split
  · exact h
  · exact List.nodup_append.2 ⟨h, by simp, fun a ha b hb => by
      rintro rfl
      exact ‹¬ m ∈ l› (by simpa using List.mem_singleton.1 hb ▸ ha)⟩

/-! ## The saturating counter -/

theorem satInc8_toNat (v : Byte) : (satInc8 v).toNat = min 255 (v.toNat + 1) := by
  unfold satInc8
  split
  · simp [*]
  · have : v.toNat ≠ 255 := fun h => ‹¬ v = 255› (BitVec.eq_of_toNat_eq (by simpa using h))
    have := v.isLt
    simp [BitVec.toNat_add]
    omega

theorem satInc8_of_lt {v : Byte} (h : v.toNat < 254) : satInc8 v = v + 1 ∧ satInc8 v ≠ debounceMax := by
  have hs := satInc8_toNat v
  refine ⟨?_, fun e => ?_⟩
  · exact BitVec.eq_of_toNat_eq (by simp [hs, BitVec.toNat_add]; omega)
  · rw [e] at hs
    simp [debounceMax] at hs
    omega

theorem satInc8_eq_max {v : Byte} : satInc8 v = debounceMax ↔ 254 ≤ v.toNat := by
  have hs := satInc8_toNat v
  have := v.isLt
  refine ⟨fun e => ?_, fun h => BitVec.eq_of_toNat_eq ?_⟩
  · rw [e] at hs
    simp [debounceMax] at hs
    omega
  · rw [hs]
    simp [debounceMax]
    omega

/-! ## The scan order -/

/-- Every binding is examined, in every scan order. -/
theorem mem_scanBindings (order : ScanOrder) (b : Binding) : b ∈ scanBindings order := by
  cases order <;> cases b <;> decide

theorem winner_eq_some {order : ScanOrder} {p : Byte} {b : Binding} :
    winner order p = some b ↔ asserted p b = true ∧
      ∃ pre post, scanBindings order = pre ++ b :: post ∧ ∀ c ∈ pre, asserted p c = false := by
  simp [winner, List.find?_eq_some_iff_append]

theorem winner_eq_none {order : ScanOrder} {p : Byte} :
    winner order p = none ↔ ∀ b, asserted p b = false := by
  simp only [winner, List.find?_eq_none]
  exact ⟨fun h b => by simpa using h b (mem_scanBindings order b), fun h b _ => by simp [h b]⟩

/-! ## The target (R161) -/

theorem targetOf_eq (hz : Nat) : targetOf hz = (1499 * hz + 5250000) / 10500000 := by
  rw [targetOf, roundHalfUp]
  omega

theorem fCpuHz_pos : 0 < Config.fCpuHz := by
  rw [Config.fCpuHz]
  exact lt_max_of_lt_left Nat.one_pos

theorem fCpuHz_le : Config.fCpuHz ≤ 459054536 := by
  have h := Config.clock.isLt
  rw [Config.fCpuHz]
  exact max_le (by decide) (Nat.le_of_lt_succ h)

/-! ## The shell of an event -/

/-- The table of R31, row by row. -/
theorem accepts_iff (p : Phase) (e : EventKind) : accepts p e = true ↔
    e = .reset ∨ (p = .awaitPoll ∧ e = .poll) ∨ (p = .polling ∧ (e = .busreset ∨ e = .setup ∨ e = .sample)) ∨
      (p = .sampled ∧ e = .sched) := by
  cases p <;> cases e <;> simp [accepts]

/-- An event runs its body where it is accepted and is refused by one mark elsewhere. -/
theorem sequenced_cases (e : EventKind) (body : State → State) (s : State) :
    (accepts s.phase e = true ∧ sequenced e body s = body s) ∨
      (accepts s.phase e = false ∧ sequenced e body s = s.refuse (.outOfPhase e.tag s.phase)) := by
  unfold sequenced
  split
  · exact .inl ⟨‹_›, rfl⟩
  · exact .inr ⟨Bool.eq_false_iff.2 ‹_›, rfl⟩

theorem sequenced_of_accepts {e : EventKind} {s : State} (h : accepts s.phase e = true) (body : State → State) :
    sequenced e body s = body s := by simp [sequenced, h]

theorem sequenced_of_not_accepts {e : EventKind} {s : State} (h : accepts s.phase e = false)
    (body : State → State) : sequenced e body s = s.refuse (.outOfPhase e.tag s.phase) := by simp [sequenced, h]

/-- A delivery changes nothing but `faults`, and that only while `inCal = 1`. -/
theorem delivered_eq (e : EventKind) (s : State) : delivered e s =
    { s with faults := if s.inCal then insertMark (.notifyInCalibration e.tag) s.faults else s.faults } := by
  unfold delivered
  split <;> rfl

theorem delivered_of_unmasked {e : EventKind} {s : State} (h : s.inCal = false) : delivered e s = s := by
  simp [delivered, h]

/-! ## The transport, the store, the frame counter -/

/-- A submit in a ready step appends the buffer to `txLog` and does nothing else. -/
theorem submit_ready (s : State) : s.submit true = { s with txLog := s.txLog ++ [s.rbuf] } := rfl

/-- A submit in a step that is not ready leaves its fault mark as well (R212). -/
theorem submit_not_ready (s : State) : s.submit false =
    { s with txLog := s.txLog ++ [s.rbuf],
             faults := insertMark (.submitNotReady s.rbuf.id s.rbuf.code) s.faults } := rfl

/-- A measurement during a calibration is the draw, logged at the trim in force, and nothing else. -/
theorem measure_in_calibration {s : State} (h : s.inCal = true) (m : Draws) (k : Nat) :
    s.measure m k = (drawAt m k, s.log (.measure s.trim (drawAt m k))) := by simp [State.measure, h]

/-- A measurement outside one leaves its fault mark as well (R214). -/
theorem measure_outside_calibration {s : State} (h : s.inCal = false) (m : Draws) (k : Nat) :
    s.measure m k =
      (drawAt m k, (s.raise .measureOutsideCalibration).log (.measure s.trim (drawAt m k))) := by
  simp [State.measure, h]

/-- The store is read back as it was written (R52). -/
theorem nvRead_nvWrite (s : State) (v : Byte) : (s.nvWrite v).nvRead.1 = v := rfl

end Sys2Proof.Machine
end

