-- ==== Sys2Proof/Laws/Exec.lean ====
section
/-! SUPPORT. The shape of `exec`: every instruction is its sequencing check around a body; and what a step can do. -/

namespace Sys2Proof.Machine

/-- What an instruction does where the sequencing register accepts it. -/
def bodyOf : Instr → State → State
  | .reset => fun s => (bootVolatile (bootTrim Config.factoryTrim s)).setPhase .awaitPoll
  | .poll => fun s => s.setPhase .polling
  | .sample p =>
    unreserved .sample p (pinReservedSet p) fun s => (samplePins Config.scanOrder p s).setPhase .sampled
  | .sched q =>
    unreserved .sched q (readyReservedSet q) fun s => (scheduleStep (readyBit q) s).setPhase .awaitPoll
  | .busreset m => fun s => calibrate target m (delivered .busreset s)
  | .setup pkt => fun s =>
    match requestOf pkt with
    | .setupGetReport r => (delivered .setup s).respond r.requestType 0x01 [s.rbuf.id, s.rbuf.code]
    | .setupGetIdle r => (delivered .setup s).respond r.requestType 0x02 [s.idleRate]
    | .setupGetProtocol r => (delivered .setup s).respond r.requestType 0x03 [s.protocolVersion]
    | .setupSetIdle r =>
      ({ delivered .setup s with idleRate := highByte r.wValue } : State).respond r.requestType 0x0A []
    | .setupSetProtocol r =>
      ({ delivered .setup s with protocolVersion := lowByte r.wValue } : State).respond r.requestType 0x0B []
    | _ => (delivered .setup s).respond pkt.bmRequestType pkt.bRequest []
  | .setupGetReport r => fun s => (delivered .setup s).respond r.requestType 0x01 [s.rbuf.id, s.rbuf.code]
  | .setupGetIdle r => fun s => (delivered .setup s).respond r.requestType 0x02 [s.idleRate]
  | .setupGetProtocol r => fun s => (delivered .setup s).respond r.requestType 0x03 [s.protocolVersion]
  | .setupSetIdle r => fun s =>
    ({ delivered .setup s with idleRate := highByte r.wValue } : State).respond r.requestType 0x0A []
  | .setupSetProtocol r => fun s =>
    ({ delivered .setup s with protocolVersion := lowByte r.wValue } : State).respond r.requestType 0x0B []
  | .setupUnhandled pkt => fun s => (delivered .setup s).respond pkt.bmRequestType pkt.bRequest []

@[simp] theorem delivered_rbuf (e : EventKind) (s : State) : (delivered e s).rbuf = s.rbuf := by
  rw [delivered_eq]

@[simp] theorem delivered_idleRate (e : EventKind) (s : State) : (delivered e s).idleRate = s.idleRate := by
  rw [delivered_eq]

@[simp] theorem delivered_protocolVersion (e : EventKind) (s : State) :
    (delivered e s).protocolVersion = s.protocolVersion := by
  rw [delivered_eq]

/-- Every instruction is its body behind its event's sequencing check, and answers a next state. -/
theorem exec_shape (i : Instr) (s : State) : exec i s = .next (sequenced i.kind (bodyOf i) s) := by
  cases i
  case setup pkt =>
    simp only [exec, execSetup, bodyOf, Instr.kind]
    cases requestOf pkt <;>
      simp [execSetupGetReport, execSetupGetIdle, execSetupGetProtocol, execSetupSetIdle, execSetupSetProtocol,
        execSetupUnhandled, answered]
  all_goals
    simp [exec, execReset, execPoll, execSample, execSched, execBusreset, execSetupGetReport, execSetupGetIdle,
      execSetupGetProtocol, execSetupSetIdle, execSetupSetProtocol, execSetupUnhandled, answered, bodyOf, Instr.kind]

/-- What a next state of `exec` can be: the body's result where the event is accepted, one refusal mark more
elsewhere. -/
theorem exec_next {i : Instr} {s t : State} (h : exec i s = .next t) :
    (accepts s.phase i.kind = true ∧ t = bodyOf i s) ∨
      (accepts s.phase i.kind = false ∧ t = s.refuse (.outOfPhase i.kind.tag s.phase)) := by
  rw [exec_shape] at h
  cases h
  exact sequenced_cases ..

theorem exec_of_accepts {i : Instr} {s : State} (h : accepts s.phase i.kind = true) :
    exec i s = .next (bodyOf i s) := by
  rw [exec_shape, sequenced_of_accepts h]

theorem exec_of_not_accepts {i : Instr} {s : State} (h : accepts s.phase i.kind = false) :
    exec i s = .next (s.refuse (.outOfPhase i.kind.tag s.phase)) := by
  rw [exec_shape, sequenced_of_not_accepts h]

/-- A step is one of four things, by what stands at the front of the stream. -/
theorem step_cases (s : State) :
    (∃ i rest, decode s.stream = .event i rest ∧ step s = exec i (s.consumed rest)) ∨
      (∃ tag rest, decode s.stream = .reserved tag rest ∧
        step s = .next (takeReserved tag (s.consumed rest))) ∨
      (∃ tag, decode s.stream = .truncated tag ∧ step s = .next (takeTruncated tag (s.consumed []))) ∨
      (decode s.stream = .ended ∧ step s = .fault .streamEnded) := by
  unfold step fetch
  cases decode s.stream <;> simp

/-! ## The sampler and the scheduler -/

/-- The sampler does one of four things, by the latch, the counter and the pins (R121). -/
theorem samplePins_cases (order : ScanOrder) (p : Byte) (s : State) :
    (s.latch ≠ .idle ∧ samplePins order p s = s) ∨
      (s.latch = .idle ∧ s.debounce.toNat < 254 ∧
        samplePins order p s = { s with debounce := s.debounce + 1 }) ∨
      (s.latch = .idle ∧ 254 ≤ s.debounce.toNat ∧ winner order p = none ∧
        samplePins order p s = { s with debounce := 255 }) ∨
      (∃ b, s.latch = .idle ∧ 254 ≤ s.debounce.toNat ∧ winner order p = some b ∧
        samplePins order p s = { s with lastKey := keycode b, debounce := 0, latch := .pendingSend }) := by
  unfold samplePins
  split
  · rename_i hl
    right
    simp only [sampleIdle]
    by_cases hd : s.debounce.toNat < 254
    · have := satInc8_of_lt hd
      exact .inl ⟨hl, hd, by rw [if_neg this.2, this.1]⟩
    · have hm := satInc8_eq_max.2 (not_lt.1 hd)
      simp only [hm, if_true]
      cases hw : winner order p with
      | none => exact .inr (.inl ⟨hl, not_lt.1 hd, rfl, rfl⟩)
      | some b => exact .inr (.inr ⟨b, hl, not_lt.1 hd, rfl, rfl⟩)
  · simp [*]
  · simp [*]

/-- One scheduler step does one of three things, by the latch and the readiness (R141). -/
theorem scheduleStep_cases (ready : Bool) (s : State) :
    ((s.latch = .idle ∨ ready = false) ∧ scheduleStep ready s = s) ∨
      (s.latch = .pendingSend ∧ ready = true ∧ scheduleStep ready s =
        { s with rbuf := ⟨0x01, s.lastKey⟩, txLog := s.txLog ++ [⟨0x01, s.lastKey⟩], latch := .pendingRelease }) ∨
      (s.latch = .pendingRelease ∧ ready = true ∧ scheduleStep ready s =
        { s with rbuf := ⟨0x00, 0x00⟩, txLog := s.txLog ++ [⟨0x01, 0x00⟩], latch := .idle }) := by
  unfold scheduleStep
  cases s.latch <;> cases ready <;> simp [pressLeg, releaseLeg, submit_ready, State.setRbuf, State.setLatch,
    reportId, noKey, zeroReport]

/-! ## The probes of a calibration -/

/-- One probe during a calibration: the trim takes the candidate, the write and the measurement are logged, and
nothing else changes (R162, R163). -/
theorem probe_in_calibration {s : State} (h : s.inCal = true) (c : Byte) (m : Draws) (k : Nat) :
    (s.trimWrite c).measure m k = (drawAt m k,
      { s with trim := c, hist := s.hist ++ [.trimWrite c, .measure c (drawAt m k)] }) := by
  rw [measure_in_calibration (by simpa using h)]
  simp [State.log, State.trimWrite]

/-- The candidates of the refinement, by where `trial` stands in its range (R167). -/
theorem candidates_eq (t : Byte) : candidates t =
    if t = 0 then [0, 1] else if t = 255 then [254, 255] else [t - 1, t, t + 1] := by
  revert t; decide

/-- One probe of the binary search during a calibration: it makes its measurement at `trial + step`, and keeps the
step where the draw is below the target (R165). -/
theorem searchProbe_in_calibration {r : Search} (h : r.st.inCal = true) (target : Nat) (m : Draws) (step : Byte) :
    searchProbe target m r step =
      { trial := if (drawAt m r.k).toNat < target then r.trial + step else r.trial
        k := r.k + 1
        st := { r.st with trim := r.trial + step,
                          hist := r.st.hist ++ [.trimWrite (r.trial + step), .measure (r.trial + step) (drawAt m r.k)] } } := by
  simp only [searchProbe, probe_in_calibration h]

/-- One candidate of the refinement during a calibration (R167). -/
theorem refineProbe_in_calibration {r : Refinement} (h : r.st.inCal = true) (target : Nat) (m : Draws) (c : Byte) :
    refineProbe target m r c =
      { best := if improves (deviation (drawAt m r.k) target) r.bestDev then c else r.best
        bestDev := if improves (deviation (drawAt m r.k) target) r.bestDev
          then some (deviation (drawAt m r.k) target) else r.bestDev
        k := r.k + 1
        st := { r.st with trim := c, hist := r.st.hist ++ [.trimWrite c, .measure c (drawAt m r.k)] } } := by
  simp only [refineProbe, probe_in_calibration h]

/-- Any number of search probes changes the trim and appends to the log, and nothing else; what
it measures are draws. -/
theorem searchProbes_frame (target : Nat) (m : Draws) (steps : List Byte) (r : Search) (h : r.st.inCal = true) :
    ∃ tr l, (steps.foldl (searchProbe target m) r).st = { r.st with trim := tr, hist := r.st.hist ++ l } ∧
      ∀ c x, HistEntry.measure c x ∈ l → ∃ k, x = drawAt m k := by
  induction steps generalizing r with
  | nil => exact ⟨r.st.trim, [], by simp, by simp⟩
  | cons c cs ih =>
    have h' : (searchProbe target m r c).st.inCal = true := by simp [searchProbe_in_calibration h, h]
    obtain ⟨tr, l, e, d⟩ := ih _ h'
    refine ⟨tr, [.trimWrite (r.trial + c), .measure (r.trial + c) (drawAt m r.k)] ++ l, ?_, fun c x hx => ?_⟩
    · rw [List.foldl_cons, e, searchProbe_in_calibration h]
      simp only [List.append_assoc]
    · simp only [List.cons_append, List.nil_append, List.mem_cons, reduceCtorEq, HistEntry.measure.injEq,
        false_or] at hx
      exact hx.elim (fun hx => ⟨r.k, hx.2⟩) (d c x)

/-- Any number of refinement probes changes the trim and appends to the log, and nothing else; what
it measures are draws. -/
theorem refineProbes_frame (target : Nat) (m : Draws) (cs : List Byte) (r : Refinement) (h : r.st.inCal = true) :
    ∃ tr l, (cs.foldl (refineProbe target m) r).st = { r.st with trim := tr, hist := r.st.hist ++ l } ∧
      ∀ c x, HistEntry.measure c x ∈ l → ∃ k, x = drawAt m k := by
  induction cs generalizing r with
  | nil => exact ⟨r.st.trim, [], by simp, by simp⟩
  | cons c cs ih =>
    have h' : (refineProbe target m r c).st.inCal = true := by simp [refineProbe_in_calibration h, h]
    obtain ⟨tr, l, e, d⟩ := ih _ h'
    refine ⟨tr, [.trimWrite c, .measure c (drawAt m r.k)] ++ l, ?_, fun c x hx => ?_⟩
    · rw [List.foldl_cons, e, refineProbe_in_calibration h]
      simp only [List.append_assoc]
    · simp only [List.cons_append, List.nil_append, List.mem_cons, reduceCtorEq, HistEntry.measure.injEq,
        false_or] at hx
      exact hx.elim (fun hx => ⟨r.k, hx.2⟩) (d c x)

/-- A calibration ends with trim, store byte and cache equal and `inCal = 0`, appends to the log, and changes nothing
else (R168, R169, R173); what it measures are draws (R162). -/
theorem calibrate_frame (target : Nat) (m : Draws) (s : State) : ∃ best l, calibrate target m s =
    { s with trim := best, nvCal := best, calCache := best, inCal := false, hist := s.hist ++ l } ∧
      ∀ c x, HistEntry.measure c x ∈ l → ∃ k, x = drawAt m k := by
  obtain ⟨tr, l, e, d⟩ := searchProbes_frame target m searchSteps { trial := 0, k := 0, st := s.setInCal true } rfl
  change (binarySearch target m (s.setInCal true)).st = _ at e
  generalize hf : binarySearch target m (s.setInCal true) = f at e
  obtain ⟨tr', l', e', d'⟩ := refineProbes_frame target m (candidates f.trial)
    { best := f.trial, bestDev := none, k := f.k, st := f.st } (by simp [e])
  change (refine target m f).st = _ at e'
  simp only [calibrate, hf]
  generalize refine target m f = r at e'
  rw [e] at e'
  refine ⟨r.best, l ++ l' ++ [.trimWrite r.best, .nvWrite Config.calAddr r.best], ?_, fun c x hx => ?_⟩
  · simp [e', State.trimWrite, State.nvWrite, State.log, State.setInCal]
  · simp only [List.mem_append, List.mem_cons, reduceCtorEq, List.not_mem_nil, or_false] at hx
    exact hx.elim (d c x) (d' c x)

/-! ## What an instruction can do -/

/-- The boot sets every volatile field, changes trim, cache and log, and nothing else (R240). -/
theorem bodyOf_reset (s : State) : ∃ tr l, bodyOf .reset s =
    { s with
      latch := .idle, debounce := 0x00, lastKey := 0x00, rbuf := ⟨0x00, 0x00⟩, idleRate := 125,
      protocolVersion := 0x00, inCal := false, phase := .awaitPoll, calCache := s.nvCal, trim := tr,
      hist := s.hist ++ l } := by
  by_cases h : s.nvCal = calAbsent
  · exact ⟨Config.factoryTrim, [.nvRead Config.calAddr s.nvCal], by
      simp [bodyOf, bootTrim, State.nvRead, h, bootVolatile, State.setPhase, State.log, zeroReport, idleDefault,
        protocolBoot]⟩
  · exact ⟨s.nvCal, [.nvRead Config.calAddr s.nvCal, .trimWrite s.nvCal], by
      simp [bodyOf, bootTrim, State.nvRead, h, bootVolatile, State.setPhase, State.trimWrite, State.log, zeroReport,
        idleDefault, protocolBoot]⟩

/-- A SETUP's body is that of the request its packet selects. -/
theorem bodyOf_setup (pkt : SetupPacket) (s : State) : bodyOf (.setup pkt) s = bodyOf (requestOf pkt) s := by
  rcases requestOf_cases pkt with ⟨_, _, h⟩ | ⟨_, _, h⟩ | ⟨_, _, h⟩ | ⟨_, _, h⟩ | ⟨_, _, h⟩ | ⟨_, h⟩ <;>
    simp only [bodyOf, h]

/-- A control request logs one answer, may write the two HID registers, and changes nothing else but a fault mark
(R191, R213). -/
theorem bodyOf_request (i : Instr) (hk : i.kind = .setup) (s : State) : ∃ rate proto e, bodyOf i s =
    { s with
      faults := if s.inCal then insertMark (.notifyInCalibration 0x05) s.faults else s.faults,
      idleRate := rate, protocolVersion := proto, hist := s.hist ++ [e] } := by
  have request : ∀ i : Instr, i.kind = .setup → i.isEvent = false → ∃ rate proto e, bodyOf i s =
      { s with
        faults := if s.inCal then insertMark (.notifyInCalibration 0x05) s.faults else s.faults,
        idleRate := rate, protocolVersion := proto, hist := s.hist ++ [e] } := by
    intro i hk hn
    cases i <;> cases hk <;> cases hn <;> simp only [bodyOf, delivered_eq, State.respond, State.log] <;>
      exact ⟨_, _, _, rfl⟩
  by_cases hs : ∃ pkt, i = .setup pkt
  · obtain ⟨pkt, rfl⟩ := hs
    rw [bodyOf_setup]
    apply request <;>
      rcases requestOf_cases pkt with ⟨_, _, h⟩ | ⟨_, _, h⟩ | ⟨_, _, h⟩ | ⟨_, _, h⟩ | ⟨_, _, h⟩ | ⟨_, h⟩ <;>
      rw [h] <;> rfl
  · exact request i hk (by cases i <;> cases hk <;> first | rfl | exact absurd ⟨_, rfl⟩ hs)

/-- Everything an instruction can do: it is refused, or it does what its family does. Every proof about all
instructions splits on this. -/
theorem exec_cases {i : Instr} {s t : State} (h : exec i s = .next t) :
    (accepts s.phase i.kind = false ∧ t = s.refuse (.outOfPhase i.kind.tag s.phase)) ∨
    (accepts s.phase i.kind = true ∧ (
      (i = .reset ∧ ∃ tr l, t =
        { s with
          latch := .idle, debounce := 0x00, lastKey := 0x00, rbuf := ⟨0x00, 0x00⟩, idleRate := 125,
          protocolVersion := 0x00, inCal := false, phase := .awaitPoll, calCache := s.nvCal, trim := tr,
          hist := s.hist ++ l }) ∨
      (i = .poll ∧ t = { s with phase := .polling }) ∨
      (∃ p, i = .sample p ∧ p.extractLsb' 3 5 ≠ 0 ∧ t = s.refuse (.reservedBits 0x02 p)) ∨
      (∃ p, i = .sample p ∧ p.extractLsb' 3 5 = 0 ∧ t = (samplePins Config.scanOrder p s).setPhase .sampled) ∨
      (∃ q, i = .sched q ∧ q.extractLsb' 1 7 ≠ 0 ∧ t = s.refuse (.reservedBits 0x03 q)) ∨
      (∃ q, i = .sched q ∧ q.extractLsb' 1 7 = 0 ∧ t = (scheduleStep (readyBit q) s).setPhase .awaitPoll) ∨
      (∃ m best l, i = .busreset m ∧ t =
        { s with
          trim := best, nvCal := best, calCache := best, inCal := false,
          faults := if s.inCal then insertMark (.notifyInCalibration 0x04) s.faults else s.faults,
          hist := s.hist ++ l }) ∨
      (i.kind = .setup ∧ ∃ rate proto e, t =
        { s with
          faults := if s.inCal then insertMark (.notifyInCalibration 0x05) s.faults else s.faults,
          idleRate := rate, protocolVersion := proto, hist := s.hist ++ [e] }))) := by
  rcases exec_next h with ⟨ha, rfl⟩ | hr
  · refine .inr ⟨ha, ?_⟩
    by_cases hk : i.kind = .setup
    · exact .inr (.inr (.inr (.inr (.inr (.inr (.inr ⟨hk, bodyOf_request i hk s⟩))))))
    cases i with
    | reset => exact .inl ⟨rfl, bodyOf_reset s⟩
    | poll => exact .inr (.inl ⟨rfl, rfl⟩)
    | sample p => by_cases hp : p.extractLsb' 3 5 = 0#5 <;> simp [bodyOf, unreserved, pinReservedSet, hp, EventKind.tag]
    | sched q => by_cases hq : q.extractLsb' 1 7 = 0#7 <;> simp [bodyOf, unreserved, readyReservedSet, hq, EventKind.tag]
    | busreset m =>
      obtain ⟨best, l, e, -⟩ := calibrate_frame target m (delivered .busreset s)
      refine .inr (.inr (.inr (.inr (.inr (.inr (.inl ⟨m, best, l, rfl, ?_⟩))))))
      change calibrate target m (delivered .busreset s) = _
      rw [e, delivered_eq]
      rfl
    | _ => exact absurd rfl hk
  · exact .inl hr

end Sys2Proof.Machine
end

