-- ==== Sys2Proof/Laws/PerInstr.lean ====
section
/-! SUPPORT. A fact about every instruction as syntax, one lemma per constructor: its bytes have the length of its
event and begin with its event's tag (R70, R71). -/

namespace Sys2Proof.Laws.EncodedForm

/-- The bytes of an instruction have the length the tag gives, and begin with the tag. -/
def Statement (i : Instr) : Prop := (encode i).length = i.kind.length ∧ (encode i).head? = some i.kind.tag

theorem reset : Statement .reset := ⟨rfl, rfl⟩

theorem poll : Statement .poll := ⟨rfl, rfl⟩

theorem sample (p : Byte) : Statement (.sample p) := ⟨rfl, rfl⟩

theorem sched (q : Byte) : Statement (.sched q) := ⟨rfl, rfl⟩

theorem busreset (m : Draws) : Statement (.busreset m) := ⟨rfl, rfl⟩

theorem setup (pkt : SetupPacket) : Statement (.setup pkt) := ⟨rfl, rfl⟩

theorem setupGetReport (r : ClassRequest) : Statement (.setupGetReport r) := ⟨rfl, rfl⟩

theorem setupGetIdle (r : ClassRequest) : Statement (.setupGetIdle r) := ⟨rfl, rfl⟩

theorem setupGetProtocol (r : ClassRequest) : Statement (.setupGetProtocol r) := ⟨rfl, rfl⟩

theorem setupSetIdle (r : ClassRequest) : Statement (.setupSetIdle r) := ⟨rfl, rfl⟩

theorem setupSetProtocol (r : ClassRequest) : Statement (.setupSetProtocol r) := ⟨rfl, rfl⟩

theorem setupUnhandled (pkt : SetupPacket) : Statement (.setupUnhandled pkt) := ⟨rfl, rfl⟩

end Sys2Proof.Laws.EncodedForm
end

