-- ==== Sys2Proof/Laws/Safety.lean ====
section
/-! SUPPORT. Small lemmas about the terms the claims are stated in: runs, the table of phases, deliveries. -/

namespace Sys2Proof.Machine

/-- The check of the shell is the table of R31. -/
theorem accepts_iff_admitted (p : Phase) (e : EventKind) : accepts p e = true ↔ e ∈ admitted p := by
  cases p <;> cases e <;> decide

theorem accepts_false_iff (p : Phase) (e : EventKind) : accepts p e = false ↔ e ∉ admitted p := by
  rw [← accepts_iff_admitted, Bool.not_eq_true]

/-- A run splits at any point: `exec` always answers a next state, so the run goes on from there. -/
theorem runInstrs_append (is js : List Instr) (s : State) : ∃ t, runInstrs is s = .next t ∧
    runInstrs (is ++ js) s = runInstrs js t := by
  induction is generalizing s with
  | nil => exact ⟨s, rfl, rfl⟩
  | cons i is ih =>
    obtain ⟨t, h1, h2⟩ := ih (sequenced i.kind (bodyOf i) s)
    exact ⟨t, by simpa [runInstrs, exec_shape] using h1, by simpa [runInstrs, exec_shape] using h2⟩

theorem KeepsPipeline.refl (s : State) : KeepsPipeline s s := ⟨rfl, rfl, rfl, rfl, rfl, rfl, rfl, rfl⟩

theorem KeepsPipeline.trans {s t u : State} (h : KeepsPipeline s t) (h' : KeepsPipeline t u) : KeepsPipeline s u :=
  ⟨h'.latch.trans h.latch, h'.debounce.trans h.debounce, h'.lastKey.trans h.lastKey, h'.rbuf.trans h.rbuf,
    h'.phase.trans h.phase, h'.refused.trans h.refused, h'.txLog.trans h.txLog, h'.stream.trans h.stream⟩

/-- A delivery, accepted or refused, leaves the key pipeline and the sequencing register alone. -/
theorem delivery_keeps {d : Instr} {s t : State} (hd : IsDelivery d) (h : exec d s = .next t) :
    t.latch = s.latch ∧ t.debounce = s.debounce ∧ t.lastKey = s.lastKey ∧ t.rbuf = s.rbuf ∧ t.phase = s.phase ∧
      t.txLog = s.txLog ∧ t.stream = s.stream := by
  rcases exec_cases h with ⟨-, rfl⟩ | ⟨-, hc⟩
  · simp
  rcases hc with ⟨rfl, -⟩ | ⟨rfl, -⟩ | ⟨p, rfl, -⟩ | ⟨p, rfl, -⟩ | ⟨q, rfl, -⟩ | ⟨q, rfl, -⟩ |
    ⟨m, best, l, rfl, rfl⟩ | ⟨-, rate, proto, e, rfl⟩
  all_goals first
    | exact ⟨rfl, rfl, rfl, rfl, rfl, rfl, rfl⟩
    | exact absurd hd (by simp [IsDelivery, Instr.kind])

/-- In `Polling` a delivery is accepted, so it leaves the refusal marks alone as well. -/
theorem delivery_keeps_pipeline {d : Instr} {s t : State} (hd : IsDelivery d) (hs : s.phase = .polling)
    (h : exec d s = .next t) : KeepsPipeline s t := by
  obtain ⟨h1, h2, h3, h4, h5, h6, h7⟩ := delivery_keeps hd h
  refine ⟨h1, h2, h3, h4, h5, ?_, h6, h7⟩
  rcases exec_cases h with ⟨ha, -⟩ | ⟨-, hc⟩
  · rcases hd with hd | hd <;> simp [hd, hs, accepts] at ha
  rcases hc with ⟨rfl, -⟩ | ⟨rfl, -⟩ | ⟨p, rfl, -⟩ | ⟨p, rfl, -⟩ | ⟨q, rfl, -⟩ | ⟨q, rfl, -⟩ |
    ⟨m, best, l, rfl, rfl⟩ | ⟨-, rate, proto, e, rfl⟩
  all_goals first
    | rfl
    | exact absurd hd (by simp [IsDelivery, Instr.kind])

/-- The deliveries of one service window run to their end and leave the key pipeline alone. -/
theorem deliveries_run {ds : List Instr} (hd : ∀ d ∈ ds, IsDelivery d) {s : State} (hs : s.phase = .polling) :
    ∃ t, runInstrs ds s = .next t ∧ KeepsPipeline s t := by
  induction ds generalizing s with
  | nil => exact ⟨s, rfl, .refl s⟩
  | cons d ds ih =>
    have h := exec_shape d s
    have keep := delivery_keeps_pipeline (hd d (by simp)) hs h
    obtain ⟨t, ht, keep'⟩ := ih (fun e he => hd e (by simp [he])) (keep.phase.trans hs)
    exact ⟨t, by simpa only [runInstrs, h] using ht, keep.trans keep'⟩

end Sys2Proof.Machine
end

