-- ==== Sys2Proof/Tests/Slice0.lean ====
section
/-! SUPPORT. Tests. Expected values come from the spec: `95_test_vectors.md` (named by its ids), the encodings of
`30_encoding.md`, or a rule named in the comment. After them, a witness for every obligation that has hypotheses. -/

namespace Sys2Proof.Tests

open Sys2Proof.Machine

/-! ## Helpers -/

/-- A block in the middle of a run, in a phase and a latch state. -/
def block (phase : Phase) (latch : Latch) (debounce : Byte) : State where
  latch := latch
  debounce := debounce
  lastKey := match latch with | .idle => 0x00 | _ => 0xE9
  rbuf := match latch with | .pendingRelease => ⟨0x01, 0xE9⟩ | _ => ⟨0x00, 0x00⟩
  idleRate := 125
  protocolVersion := 0
  trim := 0x37
  calCache := 0xD6
  nvCal := 0xD6
  inCal := false
  phase := phase
  faults := []
  refused := []
  txLog := []
  hist := []
  stream := []

/-- The state an outcome answers, if it is a next state. -/
def after : Host.Outcome State Fault Refusal → Option State
  | .next s => some s
  | .fault _ => none
  | .refused _ => none

/-- The draws of vector B-1. -/
def drawsB1 : Draws := ⟨2012, 2268, 2396, 2332, 2364, 2348, 2356, 2352, 2348, 2352, 2356⟩

/-- Eleven equal draws. -/
def flat (x : Half) : Draws := ⟨x, x, x, x, x, x, x, x, x, x, x⟩

/-- The trim register, the store byte and the cache after a calibration. -/
def calibrated (target : Nat) (m : Draws) : List Byte :=
  let t := calibrate target m (block .polling .idle 0)
  [t.trim, t.nvCal, t.calCache]

/-- How many measurements a calibration makes. -/
def measurements (target : Nat) (m : Draws) : Nat :=
  (calibrate target m (block .polling .idle 0)).hist.countP
    fun e => match e with | .measure _ _ => true | _ => false

/-- A class request to the interface, device to host, with a `wValue`. -/
def request (v : Half) : ClassRequest := ⟨1, 1, v, 0, 0⟩

/-! ## WellFormed: an ill-formed term for each check -/

theorem test_wf_sample_reserved : (Instr.sample 8).wf = false ∧ (Instr.sample 7).wf = true := by decide

theorem test_wf_sched_reserved : (Instr.sched 2).wf = false ∧ (Instr.sched 1).wf = true := by decide

theorem test_wf_unhandled :
    (Instr.setupUnhandled ⟨0xA1, 0x02, 0, 0, 1⟩).wf = false ∧ (Instr.setupUnhandled ⟨0xA1, 0x09, 0, 0, 0⟩).wf = true := by
  decide

/-! ## Decoding (DEC-1 to DEC-13) -/

theorem test_dec1_reset : decode [0x00] = .event .reset [] := by decide

theorem test_dec2_poll : decode [0x01] = .event .poll [] := by decide

theorem test_dec3_sample : decode [0x02, 0x06] = .event (.sample 6) [] := by decide

theorem test_dec4_sched : decode [0x03, 0x01] = .event (.sched 1) [] := by decide

theorem test_dec5_busreset :
    decode [0x04, 0xDC, 0x07, 0xDC, 0x08, 0x5C, 0x09, 0x1C, 0x09, 0x3C, 0x09, 0x2C, 0x09, 0x34, 0x09, 0x30, 0x09,
      0x2C, 0x09, 0x30, 0x09, 0x34, 0x09] = .event (.busreset drawsB1) [] := by decide

theorem test_dec6_setup :
    decode [0x05, 0xA1, 0x01, 0x00, 0x01, 0x00, 0x00, 0x02, 0x00] =
      .event (.setup ⟨0xA1, 0x01, 0x0100, 0x0000, 0x0002⟩) [] := by decide

theorem test_dec7_reserved : decode [0x06] = .reserved 0x06 [] := by decide

theorem test_dec8_reserved : decode [0xFF, 0x01] = .reserved 0xFF [0x01] := by decide

theorem test_dec9_truncated : decode [0x02] = .truncated 0x02 := by decide

theorem test_dec10_truncated : decode [0x04, 0, 1, 2, 3, 4, 5, 6, 7, 8, 9] = .truncated 0x04 := by decide

theorem test_dec11_reserved_bits_decode : decode [0x02, 0x08] = .event (.sample 8) [] := by decide

/-- Each field of a packet read from its own bytes (R81). -/
theorem test_setup_fields :
    decode [0x05, 0x11, 0x22, 0x33, 0x44, 0x55, 0x66, 0x77, 0x88, 0xAB] =
      .event (.setup ⟨0x11, 0x22, 0x4433, 0x6655, 0x8877⟩) [0xAB] := by decide

/-- DEC-12: `W = 0x02A1`. -/
theorem test_dec12_get_idle : requestOf ⟨0xA1, 0x02, 0, 0, 1⟩ = .setupGetIdle ⟨1, 1, 0, 0, 1⟩ := by decide

/-- DEC-13: SET_REPORT is not handled. -/
theorem test_dec13_unhandled : requestOf ⟨0xA1, 0x09, 0, 0, 0⟩ = .setupUnhandled ⟨0xA1, 0x09, 0, 0, 0⟩ := by decide

/-- C-14: host to device, still GET_REPORT. -/
theorem test_request_get_report : requestOf ⟨0x21, 0x01, 0x0100, 0, 2⟩ = .setupGetReport ⟨0, 1, 0x0100, 0, 2⟩ := by
  decide

theorem test_request_get_protocol : requestOf ⟨0xA1, 0x03, 0, 0, 1⟩ = .setupGetProtocol ⟨1, 1, 0, 0, 1⟩ := by decide

theorem test_request_set_idle : requestOf ⟨0x21, 0x0A, 0x2A00, 0, 0⟩ = .setupSetIdle ⟨0, 1, 0x2A00, 0, 0⟩ := by decide

theorem test_request_set_protocol : requestOf ⟨0x21, 0x0B, 1, 0, 0⟩ = .setupSetProtocol ⟨0, 1, 1, 0, 0⟩ := by decide

/-- C-11, C-12, C-13: vendor, standard and reserved types. -/
theorem test_request_other_types :
    requestOf ⟨0xC1, 0x01, 0, 0, 2⟩ = .setupUnhandled ⟨0xC1, 0x01, 0, 0, 2⟩ ∧
      requestOf ⟨0x80, 0x06, 0x0100, 0, 0x12⟩ = .setupUnhandled ⟨0x80, 0x06, 0x0100, 0, 0x12⟩ ∧
      requestOf ⟨0xE1, 0x02, 0, 0, 1⟩ = .setupUnhandled ⟨0xE1, 0x02, 0, 0, 1⟩ := by decide

/-- The rows of `opcode_table.json`, by their words: events by tag, requests by `W`. -/
theorem test_table_words :
    decodeTableWord 8 0x00 = some .reset ∧ decodeTableWord 8 0x01 = some .poll ∧
      decodeTableWord 16 0x0602 = some (.sample 6) ∧ decodeTableWord 16 0x0103 = some (.sched 1) ∧
      decodeTableWord 8 0x05 = some (.setup ⟨0, 0, 0, 0, 0⟩) ∧
      decodeTableWord 16 0x0120 = some (.setupGetReport ⟨0, 0, 0, 0, 0⟩) ∧
      decodeTableWord 16 0x02A1 = some (.setupGetIdle ⟨1, 1, 0, 0, 0⟩) ∧
      decodeTableWord 16 0x0320 = some (.setupGetProtocol ⟨0, 0, 0, 0, 0⟩) ∧
      decodeTableWord 16 0x0A21 = some (.setupSetIdle ⟨0, 1, 0, 0, 0⟩) ∧
      decodeTableWord 16 0x0B21 = some (.setupSetProtocol ⟨0, 1, 0, 0, 0⟩) ∧
      decodeTableWord 16 0x09A1 = some (.setupUnhandled ⟨0xA1, 0x09, 0, 0, 0⟩) ∧
      decodeTableWord 8 0x06 = none := by decide

/-- A BUSRESET word of 184 bits, draw `m0 = 0x07DC` in bytes 1 and 2. -/
theorem test_table_busreset :
    decodeTableWord 184 0x07DC04 = some (.busreset ⟨0x07DC, 0, 0, 0, 0, 0, 0, 0, 0, 0, 0⟩) := by decide

/-- The register codes of R31 and R77. -/
theorem test_register_codes :
    [Phase.off, .awaitPoll, .polling, .sampled].map phaseCode = [0b00, 0b01, 0b10, 0b11] ∧
      [Latch.idle, .pendingSend, .pendingRelease].map latchCode = [0b00, 0b01, 0b10] := by decide

/-! ## The assembler (R87, R88; program P4) -/

theorem test_p4_bytes :
    assemble [.reset, .poll, .busreset drawsB1, .setIdle 0, .getIdle, .sample pinsNone, .sched 1, .reset, .poll,
      .getIdle] =
    [0x00, 0x01, 0x04, 0xDC, 0x07, 0xDC, 0x08, 0x5C, 0x09, 0x1C, 0x09, 0x3C, 0x09, 0x2C, 0x09, 0x34, 0x09, 0x30,
      0x09, 0x2C, 0x09, 0x30, 0x09, 0x34, 0x09, 0x05, 0x21, 0x0A, 0x00, 0x00, 0x00, 0x00, 0x00, 0x00, 0x05, 0xA1,
      0x02, 0x00, 0x00, 0x00, 0x00, 0x01, 0x00, 0x02, 0x07, 0x03, 0x01, 0x00, 0x01, 0x05, 0xA1, 0x02, 0x00, 0x00,
      0x00, 0x00, 0x01, 0x00] := by decide

/-- The first lines of P4, as text with a comment. -/
theorem test_p4_text : assembleText "RESET ; 00\nPOLL\n\nGETIDLE\nSAMPLE NONE".toList =
    some [0x00, 0x01, 0x05, 0xA1, 0x02, 0x00, 0x00, 0x00, 0x00, 0x01, 0x00, 0x02, 0x07] := by decide

/-- `ITER P, Q` is `01 02 PP 03 QQ` (section 10); the AND of two pin names (R88); hexadecimal and binary (R87). -/
theorem test_assembler_operands :
    assembleText "REPEAT 2, VOLUP & MUTE, 0b1\nSETPROTO 0x7F".toList =
      some [0x01, 0x02, 0x04, 0x03, 0x01, 0x01, 0x02, 0x04, 0x03, 0x01,
        0x05, 0x21, 0x0B, 0x7F, 0x00, 0x00, 0x00, 0x00, 0x00] := by decide

theorem test_assembler_errors : assembleText "SAMPLE 256".toList = none ∧ assembleText "POLL 1".toList = none := by decide

/-! ## POLL and the sequencing check -/

/-- P-1 -/
theorem test_p1 : after (exec .poll (block .awaitPoll .idle 0)) = some (block .polling .idle 0) := by decide

/-- P-2 -/
theorem test_p2 : after (exec .poll (block .polling .idle 0)) =
    some { block .polling .idle 0 with refused := [.outOfPhase 0x01 .polling] } := by decide

/-- S-15, Q-10, B-13, C-18: the other events out of their phase. -/
theorem test_out_of_phase :
    (after (exec (.sample 7) (block .awaitPoll .idle 10))).map State.refused = some [.outOfPhase 0x02 .awaitPoll] ∧
      (after (exec (.sched 1) (block .polling .idle 0))).map State.refused = some [.outOfPhase 0x03 .polling] ∧
      (after (exec (.busreset drawsB1) (block .awaitPoll .idle 0))).map State.refused =
        some [.outOfPhase 0x04 .awaitPoll] ∧
      (after (exec (.setupGetIdle (request 0)) (block .awaitPoll .idle 0))).map State.refused =
        some [.outOfPhase 0x05 .awaitPoll] := by decide

/-! ## SAMPLE -/

/-- S-2, S-10, S-11, S-13: no latch at 254; the send phase ignores the pins; reserved bits. -/
theorem test_sample :
    after (exec (.sample 6) (block .polling .idle 253)) = some (block .sampled .idle 254) ∧
      after (exec (.sample 0) (block .polling .pendingSend 0)) = some (block .sampled .pendingSend 0) ∧
      after (exec (.sample 6) (block .polling .pendingRelease 0)) = some (block .sampled .pendingRelease 0) ∧
      after (exec (.sample 8) (block .polling .idle 10)) =
        some { block .polling .idle 10 with refused := [.reservedBits 0x02 0x08] } := by decide

/-- S-3 to S-9: the increment reaches 255 and the key latches; saturated, no wrap; the priority, by scan order. -/
theorem test_sample_latches :
    samplePins .order012 6 (block .polling .idle 254) =
        { block .polling .idle 0 with lastKey := 0xE9, latch := .pendingSend } ∧
      samplePins .order012 7 (block .polling .idle 255) = block .polling .idle 255 ∧
      (samplePins .order012 0 (block .polling .idle 255)).lastKey = 0xE9 ∧
      (samplePins .order012 1 (block .polling .idle 255)).lastKey = 0xE3 ∧
      (samplePins .order012 3 (block .polling .idle 255)).lastKey = 0xEA ∧
      (samplePins .order210 0 (block .polling .idle 255)).lastKey = 0xEA ∧
      (samplePins .order120 2 (block .polling .idle 255)).lastKey = 0xEA := by decide

/-! ## SCHED -/

/-- Q-1, Q-3, Q-9: in Idle; not ready; nothing submitted although bit 0 is 1. -/
theorem test_sched_waits :
    after (exec (.sched 1) (block .sampled .idle 7)) = some (block .awaitPoll .idle 7) ∧
      after (exec (.sched 0) (block .sampled .pendingSend 0)) = some (block .awaitPoll .pendingSend 0) ∧
      after (exec (.sched 0x81) (block .sampled .pendingSend 0)) =
        some { block .sampled .pendingSend 0 with refused := [.reservedBits 0x03 0x81] } := by decide

/-- Q-4, Q-5: the press leg and the release leg. -/
theorem test_sched_legs :
    after (exec (.sched 1) (block .sampled .pendingSend 0)) =
        some { block .awaitPoll .pendingRelease 0 with txLog := [⟨0x01, 0xE9⟩] } ∧
      after (exec (.sched 1) (block .sampled .pendingRelease 0)) =
        some { block .awaitPoll .idle 0 with lastKey := 0xE9, txLog := [⟨0x01, 0x00⟩] } := by decide

/-! ## BUSRESET -/

/-- B-1 to B-7: a draw equal to the target keeps no increment (B-2), the lowest of a tie wins (B-3). -/
theorem test_busreset_results :
    calibrated 2356 drawsB1 = [0xD6, 0xD6, 0xD6] ∧
      calibrated 2024 ⟨2024, 1512, 1768, 1896, 1960, 1992, 2008, 2016, 2008, 2016, 2024⟩ = [0x80, 0x80, 0x80] ∧
      calibrated 2356 ⟨2012, 2268, 2396, 2332, 2364, 2348, 2356, 2352, 2352, 2400, 2360⟩ = [0xD4, 0xD4, 0xD4] ∧
      calibrated 2356 (flat 60000) = [0x00, 0x00, 0x00] ∧ calibrated 2356 (flat 100) = [0xFE, 0xFE, 0xFE] ∧
      calibrated 2356 ⟨100, 100, 100, 100, 100, 100, 100, 100, 100, 2356, 0⟩ = [0xFF, 0xFF, 0xFF] ∧
      calibrated 2356 ⟨3000, 100, 5000, 100, 100, 100, 100, 100, 7, 65535, 0⟩ = [0x5E, 0x5E, 0x5E] := by decide

/-- B-4, B-16: ten measurements at the edge, eleven inside; 24 entries, of which the first four and the apply. -/
theorem test_busreset_log :
    measurements 2356 (flat 60000) = 10 ∧ measurements 2356 drawsB1 = 11 ∧
      (calibrate 2356 drawsB1 (block .polling .idle 0)).hist.length = 24 ∧
      (calibrate 2356 drawsB1 (block .polling .idle 0)).hist.take 4 =
        [.trimWrite 0x80, .measure 0x80 2012, .trimWrite 0xC0, .measure 0xC0 2268] ∧
      (calibrate 2356 drawsB1 (block .polling .idle 0)).hist[22]? = some (.trimWrite 0xD6) := by decide

/-- L1-3, R165: the steps halve, as `step >> 1` does, and end at 1. -/
theorem test_search_steps :
    searchSteps.head? = some 128 ∧ searchSteps.getLast? = some 1 ∧
      ∀ k < 7, searchSteps[k + 1]? = (searchSteps[k]?).map fun s : Byte => s >>> (1 : Nat) := by decide

/-- The `TARGET` vectors. -/
theorem test_targets :
    [10500000, 12000000, 12800000, 15000000, 16000000, 16500000, 20000000, 5250000, 3502].map targetOf =
      [1499, 1713, 1827, 2141, 2284, 2356, 2855, 750, 0] := by decide

/-! ## SETUP -/

/-- C-2, C-3, C-6: what GET requests answer. -/
theorem test_get_requests :
    (after (exec (.setupGetReport (request 0x0100)) (block .polling .pendingRelease 0))).map State.hist =
        some [.ctrlResp 0xA1 0x01 [0x01, 0xE9]] ∧
      (after (exec (.setupGetIdle (request 0)) (block .polling .idle 0))).map State.hist =
        some [.ctrlResp 0xA1 0x02 [0x7D]] ∧
      (after (exec (.setupGetProtocol (request 0)) (block .polling .idle 0))).map State.hist =
        some [.ctrlResp 0xA1 0x03 [0x00]] := by decide

/-- C-4, C-5, C-8, C-9: which byte SET requests store. -/
theorem test_set_requests :
    (after (exec (.setupSetIdle (request 0x2A00)) (block .polling .idle 0))).map State.idleRate = some 0x2A ∧
      (after (exec (.setupSetIdle (request 0x00FF)) (block .polling .idle 0))).map State.idleRate = some 0x00 ∧
      (after (exec (.setupSetProtocol (request 0x0100)) (block .polling .idle 0))).map State.protocolVersion = some 0 ∧
      (after (exec (.setupSetProtocol (request 0x007F)) (block .polling .idle 0))).map State.protocolVersion =
        some 0x7F := by decide

/-- C-10: SET_REPORT: an empty answer, nothing changed. -/
theorem test_c10 : after (exec (.setupUnhandled ⟨0x21, 0x09, 0x0200, 0, 2⟩) (block .polling .idle 0)) =
    some { block .polling .idle 0 with hist := [.ctrlResp 0x21 0x09 []] } := by decide

/-- C-15: a whole SETUP; the recipient is ignored. -/
theorem test_c15 : (after (exec (.setup ⟨0xA2, 0x02, 0, 0, 1⟩) (block .polling .idle 0))).map State.hist =
    some [.ctrlResp 0xA2 0x02 [0x7D]] := by decide

/-! ## RESET -/

/-- RS-1, RS-2, RS-3, RS-4: which trim the boot applies, with `FACTORY_TRIM = 0x80`. -/
theorem test_boot_trim :
    (bootTrim 0x80 { block .off .idle 0 with nvCal := 0xFF }).trim = 0x80 ∧
      (bootTrim 0x80 (block .off .idle 0)).trim = 0xD6 ∧
      (bootTrim 0x80 { block .off .idle 0 with nvCal := 0x00 }).trim = 0x00 ∧
      (bootTrim 0x80 { block .off .idle 0 with nvCal := 0xFE }).trim = 0xFE ∧
      (bootTrim 0x80 { block .off .idle 0 with nvCal := 0xFF }).hist.length = 1 ∧
      (bootTrim 0x80 (block .off .idle 0)).hist.length = 2 := by decide

/-- RS-5: a pending press is abandoned. -/
theorem test_rs5 : ∃ t, exec .reset { block .sampled .pendingSend 0 with idleRate := 42, protocolVersion := 1 } = .next t ∧
    t.phase = .awaitPoll ∧ t.latch = .idle ∧ t.lastKey = 0x00 ∧ t.idleRate = 125 ∧ t.protocolVersion = 0 ∧
      t.trim = 0xD6 ∧ t.txLog = [] := ⟨_, rfl, rfl, rfl, rfl, rfl, rfl, rfl, rfl⟩

/-! ## The step (DEC-7 to DEC-9, program P7) -/

theorem test_step_runs : (after (step { block .awaitPoll .idle 0 with stream := [0x01, 0x02] })).map
    (fun t => (t.phase, t.stream)) = some (.polling, [0x02]) := by decide

/-- The opcode-table word of SAMPLE 7, placed and stepped in `Polling`. -/
theorem test_fetch_word : after (step ((block .polling .idle 3).withFetchWord 16 0x0702)) =
    some (block .sampled .idle 4) := by decide

/-- A request word, placed and stepped (GET_IDLE, `W = 0x02A1`). -/
theorem test_fetch_request :
    (after (step ((block .polling .idle 3).withFetchWord 16 0x02A1))).map (fun t => (t.hist, t.stream)) =
      some ([.ctrlResp 0xA1 0x02 [0x7D]], []) := by decide

theorem test_step_reserved :
    (after (step { block .awaitPoll .idle 0 with stream := [0x06, 0x01] })).map (fun t => (t.refused, t.stream)) =
      some ([.reservedTag 0x06], [0x01]) := by decide

theorem test_step_truncated :
    (after (step { block .awaitPoll .idle 0 with stream := [0x03] })).map (fun t => (t.refused, t.stream)) =
      some ([.truncated 0x03], []) := by decide

/-- R107: no byte left. -/
theorem test_step_ended : after (step (block .awaitPoll .idle 0)) = none := by decide

/-! ## Witnesses: a state and operands that meet the hypotheses of each obligation

Every hypothesis of the form `exec i s = .next t` is met for every `i` and `s` (`exec_shape`), so a witness gives `i`
and `s` and the rest. -/

/-- Every instruction in every state has the next state the hypotheses speak of. -/
theorem witness_exec (i : Instr) (s : State) : ∃ t, exec i s = .next t := ⟨_, exec_shape i s⟩

theorem witness_EventsRoundTrip : (Instr.sample 0xFF).isEvent = true ∧ (Instr.busreset drawsB1).isEvent = true := by
  decide

theorem witness_DecodedEventsReencode : decode [0x02, 0xFF, 0x06] = .event (.sample 0xFF) [0x06] := by decide

theorem witness_RequestsRoundTrip :
    (Instr.setupGetIdle (request 0)).isEvent = false ∧ (Instr.setupGetIdle (request 0)).wf = true ∧
      (Instr.setupUnhandled ⟨0x80, 0x06, 0, 0, 0⟩).isEvent = false ∧
      (Instr.setupUnhandled ⟨0x80, 0x06, 0, 0, 0⟩).wf = true := by decide

/-- The first and the last reserved tag; the last tag of an event, one byte short and of exactly its length. -/
theorem witness_DecoderIsTotal :
    0x06 ≤ (0x06 : Byte).toNat ∧ 0x06 ≤ (0xFF : Byte).toNat ∧ (0x05 : Byte) = EventKind.setup.tag ∧
      (List.replicate 7 (0 : Byte)).length + 1 < EventKind.setup.length ∧
      EventKind.setup.length ≤ (List.replicate 8 (0 : Byte)).length + 1 := by decide

theorem witness_StepRunsTheDecodedEvent :
    decode ({ block .polling .idle 0 with stream := [0x02, 0x07, 0x03] } : State).stream = .event (.sample 7) [0x03] := by
  decide

theorem witness_UndecodableBytesAreRefused :
    decode ({ block .sampled .idle 0 with stream := [0x06, 0x01] } : State).stream = .reserved 0x06 [0x01] ∧
      decode ({ block .off .idle 0 with stream := [0xFF] } : State).stream = .reserved 0xFF [] ∧
      decode ({ block .sampled .idle 0 with stream := [0x05, 0x00] } : State).stream = .truncated 0x05 := by decide

theorem witness_StepStopsOnlyAtTheEnd :
    (block .polling .idle 0).stream = [] ∧ ({ block .polling .idle 0 with stream := [0xFF] } : State).stream ≠ [] := by
  decide

theorem witness_ByteRunIsEventRun :
    (∀ i ∈ [Instr.poll, .sample 8, .sched 1], i.isEvent = true) ∧
      ({ block .awaitPoll .idle 0 with stream := [0x01, 0x02, 0x08, 0x03, 0x01, 0x06] } : State).stream =
        [Instr.poll, .sample 8, .sched 1].flatMap encode ++ [0x06] := by decide

theorem witness_OutOfPhaseIsRefused :
    (Instr.sched 1).kind ∉ admitted (block .polling .idle 0).phase ∧
      (Instr.setupGetIdle (request 0)).kind ∉ admitted (block .sampled .idle 0).phase ∧
      Instr.poll.kind ∉ admitted (block .off .idle 0).phase := by decide

/-- The lowest and the highest reserved bit of each operand. -/
theorem witness_ReservedBitsAreRefused :
    (block .polling .idle 0).phase = .polling ∧ (0x08 : Byte).extractLsb' 3 5 ≠ 0 ∧ (0x80 : Byte).extractLsb' 3 5 ≠ 0 ∧
      (block .sampled .idle 0).phase = .sampled ∧ (0x02 : Byte).extractLsb' 1 7 ≠ 0 ∧
      (0x81 : Byte).extractLsb' 1 7 ≠ 0 := by decide

/-- Each clause: accepted and well-formed; not accepted; an ill-formed event. -/
theorem witness_PhaseMovesByTheTable :
    ((Instr.sample 7).kind ∈ admitted (block .polling .idle 0).phase ∧
        ((Instr.sample 7).isEvent = true → (Instr.sample 7).wf = true)) ∧
      ((Instr.setupUnhandled ⟨0xA1, 0x02, 0, 0, 1⟩).kind ∈ admitted (block .polling .idle 0).phase ∧
        ((Instr.setupUnhandled ⟨0xA1, 0x02, 0, 0, 1⟩).isEvent = true →
          (Instr.setupUnhandled ⟨0xA1, 0x02, 0, 0, 1⟩).wf = true)) ∧
      (Instr.sample 7).kind ∉ admitted (block .sampled .idle 0).phase ∧
      (Instr.sample 8).isEvent = true ∧ (Instr.sample 8).wf = false := by decide

theorem witness_MarksAreSticky :
    (∃ t, exec .reset { block .off .idle 0 with refused := [.reservedTag 6] } = .next t) ∧
      ∃ t, step { block .off .idle 0 with refused := [.reservedTag 6], stream := [0x00] } = .next t :=
  ⟨witness_exec .., ⟨_, rfl⟩⟩

/-- An instruction outside each clause's list of writers. -/
theorem witness_FieldsAreWrittenOnlyByTheirEvents :
    Instr.poll.kind ∉ [EventKind.sample, .sched, .reset] ∧ (Instr.sched 1).kind ∉ [EventKind.sample, .reset] ∧
      (Instr.sample 1).kind ∉ [EventKind.sched, .reset] ∧ (Instr.busreset drawsB1).kind ∉ [EventKind.setup, .reset] ∧
      (Instr.setupGetIdle (request 0)).kind ∉ [EventKind.busreset, .reset] ∧ Instr.reset.kind ≠ .busreset ∧
      Instr.reset.kind ≠ .sched ∧ (Instr.sample 0).kind ∉ [EventKind.busreset, .setup, .reset] := by decide

/-- A latch does fire: 254, all pins asserted, whatever the scan order. -/
theorem witness_LatchFiresExactlyWhenSaturatedAndAsserted :
    ∃ t, exec (.sample 0) (block .polling .idle 254) = .next t ∧ (block .polling .idle 254).latch = .idle ∧
      t.latch = .pendingSend := by
  refine ⟨_, rfl, rfl, ?_⟩
  generalize Config.scanOrder = order
  cases order <;> rfl

/-- Each clause: an executed SAMPLE in Idle that does not latch, and one that does; RESET; a SAMPLE in the send phase. -/
theorem witness_DebounceCounterLaw :
    (∃ t, exec (.sample 7) (block .polling .idle 255) = .next t ∧ t.latch = .idle) ∧
      (∃ t, exec (.sample 0) (block .polling .idle 254) = .next t ∧ t.latch ≠ .idle) ∧
      (∃ t, exec .reset (block .polling .idle 9) = .next t) ∧
      ¬ ∃ p, Instr.sample 0 = .sample p ∧ (block .polling .pendingSend 0).phase = .polling ∧
        p.extractLsb' 3 5 = 0 ∧ (block .polling .pendingSend 0).latch = .idle := by
  refine ⟨⟨_, rfl, ?_⟩, ⟨_, rfl, ?_⟩, witness_exec .., fun ⟨_, _, _, _, h⟩ => by cases h⟩
  · generalize Config.scanOrder = order
    cases order <;> rfl
  · generalize Config.scanOrder = order
    cases order <;> decide

/-- Nothing in between, and a boot and a loop iteration in between. -/
theorem witness_NextBootAppliesTheCalibration : (block .polling .pendingSend 0).phase = .polling ∧
    (∀ i ∈ ([] : List Instr), i.kind ≠ .busreset) ∧
    ∀ i ∈ Instr.reset :: iteration 7 1, i.kind ≠ .busreset := by decide

theorem witness_PollOpensTheIteration :
    (block .awaitPoll .idle 0).phase = .awaitPoll ∧ (block .off .idle 0).phase ≠ .awaitPoll ∧
      (block .sampled .idle 0).phase ≠ .awaitPoll := by decide

/-- Each clause at its boundary: 253, 254 and 255; no pin asserted; the first binding of the scan order asserted. -/
theorem witness_SampleDoesWhatItsRuleSays :
    ((block .polling .idle 253).phase = .polling ∧ (0x07 : Byte).extractLsb' 3 5 = 0 ∧
        (0x08 : Byte).extractLsb' 3 5 ≠ 0 ∧ (block .awaitPoll .idle 0).phase ≠ .polling) ∧
      (block .polling .pendingSend 0).latch ≠ .idle ∧
      ((block .polling .idle 253).latch = .idle ∧ (block .polling .idle 253).debounce.toNat < 254) ∧
      (254 ≤ (block .polling .idle 254).debounce.toNat ∧ 254 ≤ (block .polling .idle 255).debounce.toNat ∧
        ∀ b, asserted 0x07 b = false) ∧
      ∃ pre b post, scanBindings Config.scanOrder = pre ++ b :: post ∧ asserted 0x00 b = true ∧
        ∀ c ∈ pre, asserted 0x00 c = false := by
  refine ⟨by decide, by decide, by decide, ⟨by decide, by decide, fun b => by cases b <;> decide⟩, ?_⟩
  generalize Config.scanOrder = order
  cases order <;> exact ⟨[], _, _, rfl, by decide, by decide⟩

theorem witness_SendPhaseIgnoresThePins :
    (block .polling .pendingRelease 0).phase = .polling ∧ (0x00 : Byte).extractLsb' 3 5 = 0 ∧
      (block .polling .pendingRelease 0).latch ≠ .idle := by decide

/-- Each clause: both refusals; Idle; not ready; the press leg; the release leg. -/
theorem witness_SchedDoesWhatItsRuleSays :
    (block .polling .idle 0).phase ≠ .sampled ∧ (block .sampled .idle 0).phase = .sampled ∧
      (0x02 : Byte).extractLsb' 1 7 ≠ 0 ∧ (0x01 : Byte).extractLsb' 1 7 = 0 ∧ (0x00 : Byte).extractLsb' 1 7 = 0 ∧
      (block .sampled .idle 0).latch = .idle ∧ (0x00 : Byte).getLsbD 0 = false ∧ (0x01 : Byte).getLsbD 0 = true ∧
      (block .sampled .pendingSend 0).latch = .pendingSend ∧
      (block .sampled .pendingRelease 0).latch = .pendingRelease := by decide

theorem witness_SubmitsOnlyWhenReady :
    ∃ t, exec (.sched 1) (block .sampled .pendingSend 0) = .next t ∧ t.txLog ≠ (block .sampled .pendingSend 0).txLog :=
  ⟨_, rfl, by decide⟩

theorem witness_BusresetCalibratesAndPersists :
    (block .sampled .idle 0).phase ≠ .polling ∧ (block .polling .idle 0).phase = .polling := by decide

/-- The lowest and the highest target of the second part; the first and the last probe of the first. -/
theorem witness_SearchNeverWraps : 0 < 1 ∧ 1 < 2 ^ 16 ∧ 0 < 65535 ∧ 65535 < 2 ^ 16 ∧ 0 < 8 ∧ 7 < 8 := by decide

theorem witness_CalibrationMakesTenOrElevenMeasurements : (block .polling .idle 0).phase = .polling := rfl

/-- Equal draws are the values of a constant frame function, at every target: all hypotheses together. -/
theorem witness_CalibrationConverges :
    ∃ t l, (block .polling .idle 0).phase = .polling ∧ MonotoneFrame (fun _ => 1500) ∧
      exec (.busreset (flat 1500)) (block .polling .idle 0) = .next t ∧ t.hist = (block .polling .idle 0).hist ++ l ∧
      MeasuredBy (fun _ => 1500) l := by
  obtain ⟨best, l, e, d⟩ := calibrate_frame target (flat 1500) (block .polling .idle 0)
  refine ⟨_, l, rfl, fun _ _ _ => le_refl _, rfl, ?_, fun c x hx => ?_⟩
  · exact congrArg State.hist e
  · obtain ⟨k, rfl⟩ := d c x hx
    unfold drawAt flat
    split <;> rfl

theorem witness_CalibrationFindsTheClosestTrim :
    ∃ t l, (block .polling .idle 0).phase = .polling ∧ MonotoneFrame (fun _ => 1500) ∧
      exec (.busreset (flat 1500)) (block .polling .idle 0) = .next t ∧ t.hist = (block .polling .idle 0).hist ++ l ∧
      MeasuredBy (fun _ => 1500) l := witness_CalibrationConverges

theorem witness_CalibrationForgetsThePast :
    (block .polling .idle 0).phase = .polling ∧ (block .polling .pendingSend 0).phase = .polling := by decide

theorem witness_TargetIsRoundedHalfUp : 458000000 ≤ 458000000 := le_refl _

theorem witness_SetupAnswersItsRequest :
    (block .awaitPoll .idle 0).phase ≠ .polling ∧ (block .polling .idle 0).phase = .polling := by decide

theorem witness_GetReportAnswersTheBuffer :
    (block .polling .pendingRelease 0).phase = .polling ∧ BufferFollowsLatch (block .polling .pendingRelease 0) ∧
      (block .polling .idle 0).phase = .polling ∧ BufferFollowsLatch (block .polling .idle 0) := by
  unfold BufferFollowsLatch
  decide

theorem witness_GetRequestsAnswerOneByte : (block .polling .idle 0).phase = .polling := rfl

theorem witness_SetRequestsStoreOneByte : (block .polling .idle 0).phase = .polling := rfl

/-- SET_REPORT (C-10), a vendor request with a bound code (C-11). -/
theorem witness_UnhandledRequestsGetAnEmptyAnswer :
    (block .polling .idle 0).phase = .polling ∧
      ¬ ((0x21 : Byte).extractLsb' 5 2 = 0b01 ∧ (0x09 : Byte) ∈ [0x01, 0x02, 0x03, 0x0A, 0x0B]) ∧
      ¬ ((0xC1 : Byte).extractLsb' 5 2 = 0b01 ∧ (0x01 : Byte) ∈ [0x01, 0x02, 0x03, 0x0A, 0x0B]) := by decide

/-- Both kinds of delivery, while `inCal = 1`. -/
theorem witness_DeliveryInCalibrationIsMarked :
    (Instr.busreset drawsB1).kind = .busreset ∧ (Instr.setupGetIdle (request 0)).kind = .setup ∧
      ({ block .polling .idle 0 with inCal := true } : State).phase = .polling ∧
      ({ block .polling .idle 0 with inCal := true } : State).inCal = true := by decide

/-- A block with a press sent and its release not yet, which meets the invariant, and one step of it. -/
def pressed : State := { block .sampled .pendingRelease 0 with txLog := [⟨0x01, 0xE9⟩], stream := [0x03, 0x01] }

theorem pressed_inv : BlockInv pressed where
  buffer := by unfold BufferFollowsLatch; decide
  counter := by unfold CounterRestsInSendPhase; decide
  key := by unfold KeyIsBound; decide
  unmasked := rfl
  faultless := rfl
  noRepeats := by decide
  reports := by unfold ReportsAreLegal; decide

theorem witness_EveryStepKeepsTheInvariant : ∃ t, BlockInv pressed ∧ step pressed = .next t := ⟨_, pressed_inv, rfl⟩

theorem witness_ReportsComeInPairs :
    ∃ t u, BlockInv pressed ∧ PairedFrom 0 pressed ∧ Instr.sched 1 ≠ .reset ∧ exec (.sched 1) pressed = .next t ∧
      exec .reset pressed = .next u :=
  ⟨_, _, pressed_inv, ⟨[], by decide, by decide, by decide⟩, by decide, exec_shape .., exec_shape ..⟩

/-- An iteration with a bus reset and a control request delivered in its service window. -/
def busy (p q : Byte) : List Instr :=
  .poll :: [.busreset drawsB1, .setup ⟨0xA1, 0x02, 0, 0, 1⟩] ++ [.sample p, .sched q]

theorem busy_isIteration (p q : Byte) : IsIteration (busy p q) := by
  refine ⟨[.busreset drawsB1, .setup ⟨0xA1, 0x02, 0, 0, 1⟩], p, q, ?_, rfl⟩
  unfold IsDelivery
  decide

theorem iteration_isIteration (p q : Byte) : IsIteration (iteration p q) := ⟨[], p, q, by simp, rfl⟩

/-- Both parts: with a delivery, and without one. -/
theorem witness_ReadyTransportPressesThenReleases :
    (block .sampled .pendingSend 0).phase = .sampled ∧ (block .sampled .pendingSend 0).latch = .pendingSend ∧
      (0x06 : Byte).extractLsb' 3 5 = 0 ∧ (∀ d ∈ [Instr.busreset drawsB1], IsDelivery d) ∧
      ∀ d ∈ ([] : List Instr), IsDelivery d := by
  unfold IsDelivery
  decide

/-- The longest list of iterations the statement speaks of, and the empty one; each iteration with deliveries. -/
theorem witness_LatchesAre256IterationsApart : ∀ n ∈ [0, 254], ∃ u t,
    (block .sampled .pendingSend 0).phase = .sampled ∧ (block .sampled .pendingSend 0).latch = .pendingSend ∧
      (block .sampled .pendingSend 0).debounce = 0 ∧ (List.replicate n (busy 0x06 0x01)).length ≤ 254 ∧
      (∀ it ∈ List.replicate n (busy 0x06 0x01), IsIteration it) ∧ (∀ d ∈ [Instr.busreset drawsB1], IsDelivery d) ∧
      runInstrs (.sched 1 :: (List.replicate n (busy 0x06 0x01)).flatten ++ .poll :: [.busreset drawsB1])
        (block .sampled .pendingSend 0) = .next u ∧ exec (.sample 0x06) u = .next t := by
  intro n hn
  obtain ⟨u, hu, -⟩ := runInstrs_append
    (.sched 1 :: (List.replicate n (busy 0x06 0x01)).flatten ++ .poll :: [.busreset drawsB1]) []
    (block .sampled .pendingSend 0)
  refine ⟨u, _, rfl, rfl, rfl, ?_, fun it h => ?_, by unfold IsDelivery; decide, hu, exec_shape ..⟩
  · rw [List.length_replicate]
    clear hu
    revert n; decide
  · rw [List.eq_of_mem_replicate h]
    exact busy_isIteration ..

/-- The parts from the two ends of the counter's range, 254 iterations from 0 and none from 254; iterations with
deliveries and, for the second part of the first clause, without. -/
theorem witness_FirstPressLatchesAtSaturation : ∀ dn ∈ [((0 : Byte), 254), (254, 0)],
    ∀ it ∈ [busy 0x06 0x01, iteration 0x06 0x01],
    (block .awaitPoll .idle dn.1).phase = .awaitPoll ∧ (block .awaitPoll .idle dn.1).latch = .idle ∧
      (∀ x ∈ List.replicate dn.2 it, IsIteration x ∧ ∀ i ∈ x, i.wf = true ∨ i.kind = .setup) ∧
      (block .awaitPoll .idle dn.1).debounce.toNat + (List.replicate dn.2 it).length = 254 ∧
      (∀ i ∈ iteration 0x06 0x01, ¬ IsDelivery i) ∧ (∀ d ∈ [Instr.busreset drawsB1], IsDelivery d) ∧
      (0x06 : Byte).extractLsb' 3 5 = 0 ∧ asserted 0x06 .volumeUp = true := by
  intro dn hd it hit
  refine ⟨rfl, rfl, fun x h => ?_, ?_, by unfold IsDelivery; decide, by unfold IsDelivery; decide, by decide,
    by decide⟩
  · rw [List.eq_of_mem_replicate h]
    refine ⟨?_, ?_⟩
    · simp only [List.mem_cons, List.not_mem_nil, or_false] at hit
      rcases hit with rfl | rfl
      · exact busy_isIteration ..
      · exact iteration_isIteration ..
    · clear h
      revert it; decide
  · rw [List.length_replicate]
    revert dn; decide

/-- Volume up held for 255 iterations, mute going down with it in every other one, with deliveries. -/
theorem witness_HeldKeyLatchesEvery256Iterations :
    (block .sampled .pendingSend 0).phase = .sampled ∧ (block .sampled .pendingSend 0).latch = .pendingSend ∧
      (block .sampled .pendingSend 0).debounce = 0 ∧
      ((List.range 255).map fun k => busy (if k % 2 = 0 then 0x06 else 0x04) 0x01).length = 255 ∧
      (∀ it ∈ (List.range 255).map fun k => busy (if k % 2 = 0 then 0x06 else 0x04) 0x01,
        IsHeldIteration .volumeUp it) ∧
      (∀ d ∈ [Instr.busreset drawsB1], IsDelivery d) ∧ (0x06 : Byte).extractLsb' 3 5 = 0 ∧
      asserted 0x06 .volumeUp = true := by
  refine ⟨rfl, rfl, rfl, by rw [List.length_map, List.length_range], fun it h => ?_, by unfold IsDelivery; decide,
    by decide, by decide⟩
  obtain ⟨k, -, rfl⟩ := List.mem_map.1 h
  refine ⟨[.busreset drawsB1, .setup ⟨0xA1, 0x02, 0, 0, 1⟩], _, by unfold IsDelivery; decide, ?_, ?_, rfl⟩ <;>
    split <;> decide

/-- A list in the grammar and one out of it, both meeting the hypotheses. -/
theorem witness_UnrefusedRunsAreTheGrammar : ∀ is ∈ [[Instr.reset, .poll, .sample 7, .sched 1], [Instr.poll]], ∃ t,
    State.powerOn.phase = .off ∧ State.powerOn.refused = [] ∧ (∀ i ∈ is, i.wf = true ∨ i.kind = .setup) ∧
      runInstrs is State.powerOn = .next t := by
  intro is his
  obtain ⟨t, ht, -⟩ := runInstrs_append is [] State.powerOn
  refine ⟨t, rfl, rfl, ?_, ht⟩
  clear ht
  revert is; decide

end Sys2Proof.Tests
end

section
/-! SUPPORT. The block's invariant and the frame of an instruction: what the sampler and the scheduler can write, the
invariant kept by each of them, by every instruction and by every step, and where each instruction leaves the
sequencing register. -/

namespace Sys2Proof.Machine

/-! ## What the sampler and the scheduler can write -/

/-- The sampler writes latch, counter and key alone (R121). -/
theorem samplePins_writes (order : ScanOrder) (p : Byte) (s : State) : ∃ l d k,
    samplePins order p s = { s with latch := l, debounce := d, lastKey := k } := by
  rcases samplePins_cases order p s with ⟨-, e⟩ | ⟨-, -, e⟩ | ⟨-, -, -, e⟩ | ⟨b, -, -, -, e⟩ <;> rw [e] <;>
    exact ⟨_, _, _, rfl⟩

/-- The scheduler writes latch, buffer and report log alone (R141). -/
theorem scheduleStep_writes (ready : Bool) (s : State) : ∃ l r tx,
    scheduleStep ready s = { s with latch := l, rbuf := r, txLog := tx } := by
  rcases scheduleStep_cases ready s with ⟨-, e⟩ | ⟨-, -, e⟩ | ⟨-, -, e⟩ <;> rw [e] <;> exact ⟨_, _, _, rfl⟩

/-! ## The invariant under each kind of change -/

/-- The invariant reads the key pipeline, the mask and the marks alone, so every change outside the pipeline keeps it
that keeps its three clauses about mask and marks. -/
theorem BlockInv.of_frame {s t : State} (hs : BlockInv s) (hl : t.latch = s.latch) (hd : t.debounce = s.debounce)
    (hk : t.lastKey = s.lastKey) (hr : t.rbuf = s.rbuf) (htx : t.txLog = s.txLog) (hc : t.inCal = false)
    (hf : t.faults = []) (hn : t.refused.Nodup) : BlockInv t where
  buffer := by simpa only [BufferFollowsLatch, hl, hr, hk] using hs.buffer
  counter := by simpa only [CounterRestsInSendPhase, hl, hd] using hs.counter
  key := by simpa only [KeyIsBound, hl, hk] using hs.key
  unmasked := hc
  faultless := hf
  noRepeats := hn
  reports := by simpa only [ReportsAreLegal, htx] using hs.reports

theorem BlockInv.refuse {s : State} (hs : BlockInv s) (m : RefusalMark) : BlockInv (s.refuse m) :=
  hs.of_frame rfl rfl rfl rfl rfl hs.unmasked hs.faultless (nodup_insertMark m hs.noRepeats)

theorem BlockInv.setPhase {s : State} (hs : BlockInv s) (p : Phase) : BlockInv (s.setPhase p) :=
  hs.of_frame rfl rfl rfl rfl rfl hs.unmasked hs.faultless hs.noRepeats

theorem BlockInv.consumed {s : State} (hs : BlockInv s) (rest : List Byte) : BlockInv (s.consumed rest) :=
  hs.of_frame rfl rfl rfl rfl rfl hs.unmasked hs.faultless hs.noRepeats

/-- In `Idle` the counter is free. -/
theorem BlockInv.setDebounce_of_idle {s : State} (hs : BlockInv s) (hl : s.latch = .idle) (d : Byte) :
    BlockInv { s with debounce := d } :=
  { hs with counter := fun h => absurd hl h }

/-- The invariant of an empty key pipeline, as power-on and RESET leave it. -/
theorem blockInv_of_idle {s : State} (hl : s.latch = .idle) (hk : s.lastKey = 0) (hr : s.rbuf = ⟨0, 0⟩)
    (hc : s.inCal = false) (hf : s.faults = []) (hn : s.refused.Nodup) (htx : ReportsAreLegal s) : BlockInv s where
  buffer := by simp [BufferFollowsLatch, hl, hr]
  counter := fun h => absurd hl h
  key := by simp [KeyIsBound, hl, hk]
  unmasked := hc
  faultless := hf
  noRepeats := hn
  reports := htx

theorem keycode_bound (b : Binding) : keycode b ∈ [0x00, 0xE9, 0xE3, 0xEA] ∧ keycode b ≠ 0x00 := by
  cases b <;> decide

/-- One more report of ID 1 with a bound keycode or 0. -/
theorem reportsAreLegal_append {s t : State} {k : Byte} (hs : ReportsAreLegal s) (hk : k ∈ [0x00, 0xE9, 0xE3, 0xEA])
    (ht : t.txLog = s.txLog ++ [⟨0x01, k⟩]) : ReportsAreLegal t := by
  intro r hr
  rw [ht, List.mem_append, List.mem_singleton] at hr
  rcases hr with hr | rfl
  · exact hs r hr
  · refine ⟨rfl, ?_⟩
    simp only [List.mem_cons, List.not_mem_nil, or_false] at hk ⊢
    tauto

/-! ## The invariant under the sampler, the scheduler, an instruction and a step -/

theorem samplePins_keeps_blockInv {s : State} (hs : BlockInv s) (order : ScanOrder) (p : Byte) :
    BlockInv (samplePins order p s) := by
  rcases samplePins_cases order p s with ⟨-, e⟩ | ⟨hl, -, e⟩ | ⟨hl, -, -, e⟩ | ⟨b, hl, -, -, e⟩ <;> rw [e]
  · exact hs
  · exact hs.setDebounce_of_idle hl _
  · exact hs.setDebounce_of_idle hl _
  · have hbuf : s.rbuf = ⟨0x00, 0x00⟩ := hs.buffer.2 (by simp [hl])
    exact { hs with
      buffer := ⟨nofun, fun _ => hbuf⟩
      counter := fun _ => rfl
      key := ⟨(keycode_bound b).1, fun _ => (keycode_bound b).2⟩ }

theorem scheduleStep_keeps_blockInv {s : State} (hs : BlockInv s) (ready : Bool) :
    BlockInv (scheduleStep ready s) := by
  rcases scheduleStep_cases ready s with ⟨-, e⟩ | ⟨hl, -, e⟩ | ⟨hl, -, e⟩ <;> rw [e]
  · exact hs
  · have hsend : s.latch ≠ .idle := by simp [hl]
    exact { hs with
      buffer := ⟨fun _ => rfl, fun h => absurd rfl h⟩
      counter := fun _ => hs.counter hsend
      key := ⟨hs.key.1, fun _ => hs.key.2 hsend⟩
      reports := reportsAreLegal_append hs.reports hs.key.1 rfl }
  · exact { hs with
      buffer := ⟨nofun, fun _ => rfl⟩
      counter := fun h => absurd rfl h
      key := ⟨hs.key.1, fun h => absurd rfl h⟩
      reports := reportsAreLegal_append hs.reports (by decide) rfl }

/-- Every instruction keeps the invariant, refused or not. -/
theorem exec_keeps_blockInv {i : Instr} {s t : State} (hs : BlockInv s) (h : exec i s = .next t) : BlockInv t := by
  have hf (m : FaultMark) : (if s.inCal then insertMark m s.faults else s.faults) = [] := by
    simp [hs.unmasked, hs.faultless]
  rcases exec_cases h with ⟨-, rfl⟩ | ⟨-, hc⟩
  · exact hs.refuse _
  rcases hc with ⟨-, tr, l, rfl⟩ | ⟨-, rfl⟩ | ⟨p, -, -, rfl⟩ | ⟨p, -, -, rfl⟩ | ⟨q, -, -, rfl⟩ | ⟨q, -, -, rfl⟩ |
    ⟨m, best, l, -, rfl⟩ | ⟨-, rate, proto, e, rfl⟩
  · exact blockInv_of_idle rfl rfl rfl rfl hs.faultless hs.noRepeats hs.reports
  · exact hs.setPhase _
  · exact hs.refuse _
  · exact (samplePins_keeps_blockInv hs _ p).setPhase _
  · exact hs.refuse _
  · exact (scheduleStep_keeps_blockInv hs _).setPhase _
  · exact hs.of_frame rfl rfl rfl rfl rfl rfl (hf _) hs.noRepeats
  · exact hs.of_frame rfl rfl rfl rfl rfl hs.unmasked (hf _) hs.noRepeats

theorem blockInv_powerOn : BlockInv State.powerOn :=
  blockInv_of_idle rfl rfl rfl rfl rfl List.nodup_nil nofun

/-! ## Where an accepted instruction leaves the sequencing register -/

/-- A delivery is accepted in `Polling` alone (R31). -/
theorem phase_of_accepted_delivery {p : Phase} {i : Instr} (hi : IsDelivery i) (ha : accepts p i.kind = true) :
    p = .polling := by
  rcases hi with hk | hk <;> simpa [hk, accepts_iff] using ha

theorem wf_of_setup_event {i : Instr} (hk : i.kind = .setup) (he : i.isEvent = true) : i.wf = true := by
  cases i with
  | setup pkt => rfl
  | _ => cases hk <;> cases he

/-- An accepted instruction moves the sequencing register as R31 says, unless it is an ill-formed event, which leaves
it (R217). -/
theorem phase_of_accepted {i : Instr} {s t : State} (ha : accepts s.phase i.kind = true) (h : exec i s = .next t) :
    ((i.isEvent = true → i.wf = true) ∧ t.phase = phaseAfter i.kind) ∨
      (i.isEvent = true ∧ i.wf = false ∧ t.phase = s.phase) := by
  rcases exec_cases h with ⟨hn, -⟩ | ⟨-, hc⟩
  · exact absurd ha (by simp [hn])
  rcases hc with ⟨rfl, tr, l, rfl⟩ | ⟨rfl, rfl⟩ | ⟨p, rfl, hp, rfl⟩ | ⟨p, rfl, hp, rfl⟩ | ⟨q, rfl, hq, rfl⟩ |
    ⟨q, rfl, hq, rfl⟩ | ⟨m, best, l, rfl, rfl⟩ | ⟨hk, rate, proto, e, rfl⟩
  · exact .inl ⟨fun _ => rfl, rfl⟩
  · exact .inl ⟨fun _ => rfl, rfl⟩
  · exact .inr ⟨rfl, decide_eq_false hp, rfl⟩
  · exact .inl ⟨fun _ => decide_eq_true hp, rfl⟩
  · exact .inr ⟨rfl, decide_eq_false hq, rfl⟩
  · exact .inl ⟨fun _ => decide_eq_true hq, rfl⟩
  · exact .inl ⟨fun _ => rfl, phase_of_accepted_delivery (.inl rfl) ha⟩
  · exact .inl ⟨wf_of_setup_event hk, by rw [hk]; exact phase_of_accepted_delivery (.inr hk) ha⟩

/-! ## The obligations -/

/-- Settles O43: by the four things a step can do, each of which keeps the invariant. -/
theorem everyStepKeepsTheInvariant : Obligations.EveryStepKeepsTheInvariant := by
  intro s t hs h
  rcases step_cases s with ⟨i, rest, -, e⟩ | ⟨tag, rest, -, e⟩ | ⟨tag, -, e⟩ | ⟨-, e⟩ <;> rw [e] at h
  · exact exec_keeps_blockInv (hs.consumed rest) h
  · cases h
    exact (hs.consumed rest).refuse _
  · cases h
    exact (hs.consumed []).refuse _
  · cases h

/-- Settles O14: by whether the sequencing register accepts the event. -/
theorem phaseMovesByTheTable : Obligations.PhaseMovesByTheTable := by
  intro i s t h
  by_cases hm : i.kind ∈ admitted s.phase
  · rcases phase_of_accepted ((accepts_iff_admitted ..).2 hm) h with ⟨hwf, hp⟩ | ⟨he, hwf, hp⟩
    · exact ⟨fun _ _ => hp, fun hn => absurd hm hn, fun he hi => absurd (hwf he) (by simp [hi])⟩
    · exact ⟨fun _ hw => absurd (hw he) (by simp [hwf]), fun _ => hp, fun _ _ => hp⟩
  · rw [exec_of_not_accepts ((accepts_false_iff ..).2 hm)] at h
    cases h
    exact ⟨fun h => absurd h hm, fun _ => rfl, fun _ _ => rfl⟩

/-- Settles O16: by what each family of instructions can write. -/
theorem fieldsAreWrittenOnlyByTheirEvents : Obligations.FieldsAreWrittenOnlyByTheirEvents := by
  intro i s t h
  rcases exec_cases h with ⟨-, rfl⟩ | ⟨-, hc⟩
  · simp
  rcases hc with ⟨rfl, tr, l, rfl⟩ | ⟨rfl, rfl⟩ | ⟨p, rfl, -, rfl⟩ | ⟨p, rfl, -, rfl⟩ | ⟨q, rfl, -, rfl⟩ |
    ⟨q, rfl, -, rfl⟩ | ⟨m, best, l, rfl, rfl⟩ | ⟨hk, rate, proto, e, rfl⟩
  · simp [Instr.kind]
  · simp
  · simp
  · obtain ⟨l, d, k, e⟩ := samplePins_writes Config.scanOrder p s
    simp [Instr.kind, e]
  · simp
  · obtain ⟨l, r, tx, e⟩ := scheduleStep_writes (readyBit q) s
    simp [Instr.kind, e]
  · simp [Instr.kind]
  · simp [hk]

/-- Settles O18: by whether the store holds the sentinel `CAL_ABSENT`. -/
theorem resetStateIsWhatResetLeaves : Obligations.ResetStateIsWhatResetLeaves := by
  unfold Obligations.ResetStateIsWhatResetLeaves
  have haccepts : accepts State.powerOn.phase Instr.reset.kind = true := rfl
  rw [exec_of_accepts haccepts]
  by_cases h : Config.nvInit = 0xFF#8 <;>
    simp [bodyOf, bootTrim, bootVolatile, State.nvRead, State.trimWrite, State.log, State.setPhase, State.powerOn,
      State.reset, calAbsent, zeroReport, idleDefault, protocolBoot, h]

/-- Settles O42: power-on has an empty key pipeline, and RESET keeps the invariant. -/
theorem invariantHoldsAtReset : Obligations.InvariantHoldsAtReset :=
  ⟨exec_keeps_blockInv blockInv_powerOn resetStateIsWhatResetLeaves, blockInv_powerOn⟩

end Sys2Proof.Machine
end

section
/-! SUPPORT. The step over the bytes of events: the decoder reads an encoded event back, no instruction's meaning
depends on the stream, and so a run over bytes is a run of the events they hold. -/

namespace Sys2Proof

/-! ## An event is read back from its bytes -/

/-- A tag with at least its operand bytes decodes as the tag's event, and what follows the operands is the rest. -/
theorem decode_tag_append {k : EventKind} {operands : List Byte} (h : operands.length + 1 = k.length)
    (rest : List Byte) : decode (k.tag :: (operands ++ rest)) =
      .event (readEvent k (k.tag :: (operands ++ rest))) rest := by
  have enough : ¬ (k.tag :: (operands ++ rest)).length < k.length := by
    simp only [List.length_cons, List.length_append]
    omega
  have after : (k.tag :: (operands ++ rest)).drop k.length = rest := by simp [← h]
  rw [decode, eventOfTag_tag]
  dsimp only
  rw [if_neg enough, after]

@[simp] theorem drawsAt_bytes (t : Byte) (m : Draws) (rest : List Byte) : drawsAt (t :: (m.bytes ++ rest)) = m := by
  simp [drawsAt, Draws.bytes, halfAt, halfBytes, byteAt]

@[simp] theorem packetAt_bytes (t : Byte) (pkt : SetupPacket) (rest : List Byte) :
    packetAt (t :: (pkt.bytes ++ rest)) = pkt := by
  simp [packetAt, SetupPacket.bytes, halfAt, halfBytes, byteAt]

/-- Every event, well-formed or not, decodes from its bytes, whatever follows them (R70, R85, R87). -/
theorem decode_encode_append {i : Instr} (hi : i.isEvent = true) (rest : List Byte) :
    decode (encode i ++ rest) = .event i rest := by
  cases i with
  | reset => exact decode_tag_append (k := .reset) (operands := []) rfl rest
  | poll => exact decode_tag_append (k := .poll) (operands := []) rfl rest
  | sample p => exact decode_tag_append (k := .sample) (operands := [p]) rfl rest
  | sched q => exact decode_tag_append (k := .sched) (operands := [q]) rfl rest
  | busreset m =>
    have h := decode_tag_append (k := .busreset) (operands := m.bytes) rfl rest
    rwa [readEvent, drawsAt_bytes] at h
  | setup pkt =>
    have h := decode_tag_append (k := .setup) (operands := pkt.bytes) rfl rest
    rwa [readEvent, packetAt_bytes] at h
  | _ => cases hi

end Sys2Proof

namespace Sys2Proof.Machine

/-! ## No operation depends on the stream

Each operation commutes with `State.consumed`, which replaces the stream (R63): what it does, and all it leaves, is the
same whatever bytes are still to come. -/

theorem consumed_latch (s : State) (rest : List Byte) : (s.consumed rest).latch = s.latch := rfl

theorem delivered_consumed (e : EventKind) (s : State) (rest : List Byte) :
    delivered e (s.consumed rest) = (delivered e s).consumed rest := by
  simp only [delivered_eq, State.consumed]

theorem trimWrite_consumed (s : State) (v : Byte) (rest : List Byte) :
    (s.consumed rest).trimWrite v = (s.trimWrite v).consumed rest := rfl

theorem setInCal_consumed (s : State) (b : Bool) (rest : List Byte) :
    (s.consumed rest).setInCal b = (s.setInCal b).consumed rest := rfl

theorem measure_consumed (s : State) (m : Draws) (k : Nat) (rest : List Byte) :
    (s.consumed rest).measure m k = ((s.measure m k).1, (s.measure m k).2.consumed rest) := by
  cases h : s.inCal
  · rw [measure_outside_calibration h, measure_outside_calibration (s := s.consumed rest) h]
    rfl
  · rw [measure_in_calibration h, measure_in_calibration (s := s.consumed rest) h]
    rfl

/-- A binary search under way, with another stream. -/
def Search.consumed (r : Search) (rest : List Byte) : Search := { r with st := r.st.consumed rest }

/-- A refinement under way, with another stream. -/
def Refinement.consumed (r : Refinement) (rest : List Byte) : Refinement := { r with st := r.st.consumed rest }

theorem searchProbe_consumed (target : Nat) (m : Draws) (r : Search) (step : Byte) (rest : List Byte) :
    searchProbe target m (r.consumed rest) step = (searchProbe target m r step).consumed rest := by
  simp only [searchProbe, Search.consumed, trimWrite_consumed, measure_consumed]

theorem refineProbe_consumed (target : Nat) (m : Draws) (r : Refinement) (c : Byte) (rest : List Byte) :
    refineProbe target m (r.consumed rest) c = (refineProbe target m r c).consumed rest := by
  simp only [refineProbe, Refinement.consumed, trimWrite_consumed, measure_consumed]

theorem binarySearch_consumed (target : Nat) (m : Draws) (s : State) (rest : List Byte) :
    binarySearch target m (s.consumed rest) = (binarySearch target m s).consumed rest :=
  List.foldl_hom (Search.consumed · rest) (init := { trial := 0, k := 0, st := s }) fun r step =>
    searchProbe_consumed target m r step rest

theorem refine_consumed (target : Nat) (m : Draws) (f : Search) (rest : List Byte) :
    refine target m (f.consumed rest) = (refine target m f).consumed rest :=
  List.foldl_hom (Refinement.consumed · rest)
    (init := { best := f.trial, bestDev := none, k := f.k, st := f.st }) fun r c =>
      refineProbe_consumed target m r c rest

theorem calibrate_consumed (target : Nat) (m : Draws) (s : State) (rest : List Byte) :
    calibrate target m (s.consumed rest) = (calibrate target m s).consumed rest := by
  simp only [calibrate, setInCal_consumed, binarySearch_consumed, refine_consumed]
  generalize refine target m _ = r
  rfl

theorem bootTrim_consumed (v : Byte) (s : State) (rest : List Byte) :
    bootTrim v (s.consumed rest) = (bootTrim v s).consumed rest := by
  by_cases h : s.nvCal = calAbsent <;> simp [bootTrim, State.nvRead, State.trimWrite, State.log, State.consumed, h]

theorem samplePins_consumed (order : ScanOrder) (p : Byte) (s : State) (rest : List Byte) :
    samplePins order p (s.consumed rest) = (samplePins order p s).consumed rest := by
  simp only [samplePins, consumed_latch]
  cases s.latch with
  | idle =>
    by_cases h : satInc8 s.debounce = debounceMax
    · cases hw : winner order p <;> simp [sampleIdle, State.consumed, State.latchKey, h, hw]
    · simp [sampleIdle, State.consumed, h]
  | _ => rfl

theorem scheduleStep_consumed (ready : Bool) (s : State) (rest : List Byte) :
    scheduleStep ready (s.consumed rest) = (scheduleStep ready s).consumed rest := by
  simp only [scheduleStep, consumed_latch]
  cases s.latch <;> cases ready <;> rfl

theorem unreserved_consumed (e : EventKind) (operand : Byte) (bad : Bool) {body : State → State} {rest : List Byte}
    (h : ∀ s, body (s.consumed rest) = (body s).consumed rest) (s : State) :
    unreserved e operand bad body (s.consumed rest) = (unreserved e operand bad body s).consumed rest := by
  cases bad
  · exact h s
  · rfl

/-- The body of a control request; `bodyOf_setup` brings that of a SETUP to one. -/
theorem bodyOf_request_consumed {i : Instr} (hk : i.kind = .setup) (hn : i.isEvent = false) (s : State)
    (rest : List Byte) : bodyOf i (s.consumed rest) = (bodyOf i s).consumed rest := by
  cases i <;> cases hk <;> cases hn <;> simp only [bodyOf, delivered_consumed] <;> rfl

/-- What an instruction does where it is accepted is the same whatever bytes are still to come. -/
theorem bodyOf_consumed (i : Instr) (s : State) (rest : List Byte) :
    bodyOf i (s.consumed rest) = (bodyOf i s).consumed rest := by
  cases i with
  | reset => exact congrArg (fun t => (bootVolatile t).setPhase .awaitPoll) (bootTrim_consumed Config.factoryTrim s rest)
  | poll => rfl
  | sample p =>
    refine unreserved_consumed _ _ _ (body := fun s => (samplePins Config.scanOrder p s).setPhase .sampled)
      (fun s => ?_) s
    rw [samplePins_consumed]
    rfl
  | sched q =>
    refine unreserved_consumed _ _ _ (body := fun s => (scheduleStep (readyBit q) s).setPhase .awaitPoll)
      (fun s => ?_) s
    rw [scheduleStep_consumed]
    rfl
  | busreset m => simp only [bodyOf, delivered_consumed, calibrate_consumed]
  | setup pkt =>
    rw [bodyOf_setup, bodyOf_setup]
    rcases requestOf_cases pkt with ⟨_, _, h⟩ | ⟨_, _, h⟩ | ⟨_, _, h⟩ | ⟨_, _, h⟩ | ⟨_, _, h⟩ | ⟨_, h⟩ <;> rw [h] <;>
      exact bodyOf_request_consumed rfl rfl s rest
  | _ => exact bodyOf_request_consumed rfl rfl s rest

/-- An instruction, accepted or refused, answers the same next state up to the stream, which it keeps (R63). -/
theorem exec_consumed {i : Instr} {s t : State} (h : exec i s = .next t) (rest : List Byte) :
    exec i (s.consumed rest) = .next (t.consumed rest) := by
  rcases exec_next h with ⟨ha, rfl⟩ | ⟨ha, rfl⟩
  · rw [exec_of_accepts (s := s.consumed rest) ha, bodyOf_consumed]
  · exact exec_of_not_accepts (s := s.consumed rest) ha

/-! ## Steps and runs -/

/-- Where an event stands at the front of the stream, the step executes it on the state without its bytes. -/
theorem step_of_decode {s : State} {i : Instr} {rest : List Byte} (h : decode s.stream = .event i rest) :
    step s = exec i (s.consumed rest) := by
  simp only [step, fetch, h]

/-- The step over an event's bytes takes exactly those bytes off the stream and executes the event. -/
theorem step_encode {i : Instr} (hi : i.isEvent = true) (s : State) (rest : List Byte) :
    step (s.consumed (encode i ++ rest)) = exec i (s.consumed rest) :=
  step_of_decode (s := s.consumed (encode i ++ rest)) (decode_encode_append hi rest)

/-- As many steps as there are events, over their bytes, are the run of the events, by induction on the events: the
first step executes the first event, and what it leaves is the same with the later events' bytes on the stream as
without them. -/
theorem run_encode {is : List Instr} (his : ∀ i ∈ is, i.isEvent = true) (s : State) (rest : List Byte) :
    Host.Core.run Sys2Proof.core is.length (s.consumed (is.flatMap encode ++ rest)) =
      runInstrs is (s.consumed rest) := by
  induction is generalizing s with
  | nil => rfl
  | cons i is ih =>
    have hexec := exec_shape i s
    generalize sequenced i.kind (bodyOf i) s = t at hexec
    have hstep : Sys2Proof.core.step (s.consumed ((i :: is).flatMap encode ++ rest)) =
        .next (t.consumed (is.flatMap encode ++ rest)) := by
      rw [List.flatMap_cons, List.append_assoc]
      exact (step_encode (his i (by simp)) s _).trans (exec_consumed hexec _)
    simp only [List.length_cons, Host.Core.run, hstep, runInstrs, exec_consumed hexec]
    exact ih (fun j hj => his j (by simp [hj])) t

/-! ## The obligations -/

/-- Settles O7: by `step_of_decode`; the state without the event's bytes is `State.consumed`. -/
theorem stepRunsTheDecodedEvent : Obligations.StepRunsTheDecodedEvent :=
  fun _ _ _ h => step_of_decode h

/-- Settles O10: by `run_encode`, the induction over the events, since a state with its own stream put back is itself. -/
theorem byteRunIsEventRun : Obligations.ByteRunIsEventRun := by
  intro is rest s his hstream
  have hs : s.consumed (is.flatMap encode ++ rest) = s := by rw [← hstream]; rfl
  have hrun := run_encode his s rest
  rwa [hs] at hrun

end Sys2Proof.Machine
end

section
/-! SUPPORT. The encoding: the decoder's answer at every stream, events and requests against their bytes and packets,
and the assembler's pseudo-events. -/

namespace Sys2Proof

/-! ## The bytes of a decoded event -/

/-- The first bytes of a stream, read one by one. -/
theorem map_byteAt_range {bs : List Byte} {n : Nat} (h : n ≤ bs.length) :
    (List.range n).map (byteAt bs) = bs.take n := by
  apply List.ext_getElem
  · simp [h]
  · intro k hk _
    have hlt : k < bs.length := by simp at hk; omega
    simp [byteAt, hlt]

/-- A u16 read from a stream is written back as the two bytes it was read from (R54). -/
@[simp] theorem halfBytes_halfAt (bs : List Byte) (k : Nat) :
    halfBytes (halfAt bs k) = [byteAt bs k, byteAt bs (k + 1)] := by
  simp [halfBytes, halfAt]

@[simp] theorem halfBytes_zero : halfBytes 0#16 = [0x00, 0x00] := by decide

@[simp] theorem readEvent_kind (k : EventKind) (bs : List Byte) : (readEvent k bs).kind = k := by cases k <;> rfl

@[simp] theorem readEvent_isEvent (k : EventKind) (bs : List Byte) : (readEvent k bs).isEvent = true := by
  cases k <;> rfl

/-- An event read from a stream is written back as the bytes of its length: reading drops no bit (R70). -/
theorem encode_readEvent {k : EventKind} {operands : List Byte} (h : k.length ≤ (k.tag :: operands).length) :
    encode (readEvent k (k.tag :: operands)) = (k.tag :: operands).take k.length := by
  rw [← map_byteAt_range h]
  cases k with
  | busreset => simp only [readEvent, encode, Draws.bytes, drawsAt, halfBytes_halfAt]; rfl
  | setup => simp only [readEvent, encode, SetupPacket.bytes, packetAt, halfBytes_halfAt]; rfl
  | _ => rfl

/-! ## The decoder at a non-empty stream (R85) -/

theorem decode_reserved {t : Byte} (h : 0x06 ≤ t.toNat) (bs : List Byte) : decode (t :: bs) = .reserved t bs := by
  rw [decode, eventOfTag_eq_none.2 h]

theorem decode_tag (k : EventKind) (bs : List Byte) : decode (k.tag :: bs) =
    if (k.tag :: bs).length < k.length then .truncated k.tag
    else .event (readEvent k (k.tag :: bs)) ((k.tag :: bs).drop k.length) := by
  rw [decode, eventOfTag_tag]

/-- What the decoder reads as an event has an event's tag and at least that event's bytes. -/
theorem decode_eq_event {bs rest : List Byte} {i : Instr} (h : decode bs = .event i rest) :
    ∃ k operands, bs = k.tag :: operands ∧ k.length ≤ bs.length ∧ i = readEvent k bs ∧ rest = bs.drop k.length := by
  cases bs with
  | nil => cases h
  | cons t operands =>
    cases ht : eventOfTag t with
    | none =>
      rw [decode_reserved (eventOfTag_eq_none.1 ht)] at h
      cases h
    | some k =>
      obtain rfl := eventOfTag_eq_some.1 ht
      rw [decode_tag] at h
      split at h
      · cases h
      · cases h
        exact ⟨k, operands, rfl, not_lt.1 ‹_›, rfl, rfl⟩

/-! ## Control requests and their packets (R82 to R84) -/

/-- Which request the packet of a class request selects, by its code. -/
theorem requestOf_packet (r : ClassRequest) (code : Byte) : requestOf (r.packet code) =
    if code = 0x01 then .setupGetReport r
    else if code = 0x02 then .setupGetIdle r
    else if code = 0x03 then .setupGetProtocol r
    else if code = 0x0A then .setupSetIdle r
    else if code = 0x0B then .setupSetProtocol r
    else .setupUnhandled (r.packet code) := by
  have htype : (r.packet code).bmRequestType.extractLsb' 5 2 = 0b01 := (requestType_fields r).1
  rw [requestOf_eq, if_pos htype, classRequest_packet]
  rfl

theorem isHandled_iff (pkt : SetupPacket) : pkt.isHandled = true ↔
    pkt.bmRequestType.extractLsb' 5 2 = 0b01 ∧ pkt.bRequest ∈ [0x01, 0x02, 0x03, 0x0A, 0x0B] := by
  simp [SetupPacket.isHandled, or_assoc]

theorem requestOf_eq_unhandled_iff (pkt : SetupPacket) :
    requestOf pkt = .setupUnhandled pkt ↔ pkt.isHandled = false := by
  rw [← Bool.not_eq_true, isHandled_iff]
  rcases requestOf_cases pkt with ⟨ht, hc, h⟩ | ⟨ht, hc, h⟩ | ⟨ht, hc, h⟩ | ⟨ht, hc, h⟩ | ⟨ht, hc, h⟩ | ⟨hn, h⟩
  case inr.inr.inr.inr.inr => exact iff_of_true h hn
  all_goals simp [ht, hc, h]

/-- The request a packet selects is well-formed, is no event of its own, and gives the packet back. -/
theorem requestOf_gives_packet_back (pkt : SetupPacket) :
    (requestOf pkt).packet? = some pkt ∧ (requestOf pkt).wf = true ∧ (requestOf pkt).isEvent = false := by
  have back {code : Byte} (ht : pkt.bmRequestType.extractLsb' 5 2 = 0b01) (hc : pkt.bRequest = code) :
      some (pkt.classRequest.packet code) = some pkt := by rw [← hc, packet_classRequest pkt ht]
  rcases requestOf_cases pkt with ⟨ht, hc, h⟩ | ⟨ht, hc, h⟩ | ⟨ht, hc, h⟩ | ⟨ht, hc, h⟩ | ⟨ht, hc, h⟩ | ⟨-, h⟩
  case inr.inr.inr.inr.inr =>
    have hwf : (Instr.setupUnhandled pkt).wf = true := by simp [Instr.wf, (requestOf_eq_unhandled_iff pkt).1 h]
    rw [h]
    exact ⟨rfl, hwf, rfl⟩
  all_goals
    rw [h]
    exact ⟨back ht hc, rfl, rfl⟩

theorem kind_of_not_isEvent {i : Instr} (h : i.isEvent = false) : i.kind = .setup := by
  cases i <;> cases h <;> rfl

end Sys2Proof

namespace Sys2Proof.Machine

/-! ## SETUP and the pseudo-events -/

/-- SETUP and the request it selects stand behind the same sequencing check and have the same body (R191). -/
theorem exec_setup (pkt : SetupPacket) (s : State) : exec (.setup pkt) s = exec (requestOf pkt) s := by
  obtain ⟨-, -, hevent⟩ := requestOf_gives_packet_back pkt
  have hkind : (requestOf pkt).kind = (Instr.setup pkt).kind := kind_of_not_isEvent hevent
  rw [exec_shape, exec_shape, hkind, funext (bodyOf_setup pkt)]

theorem copies_eq_flatten (n : Nat) (is : List Instr) : copies n is = (List.replicate n is).flatten := by
  induction n with
  | zero => rfl
  | succ n ih => rw [copies, ih, List.replicate_succ, List.flatten_cons]

/-- A byte operand of a pseudo-event is the low byte of `wValue`, or, shifted, its high byte; the other one is 0. -/
theorem halfBytes_setWidth (v : Byte) :
    halfBytes (v.setWidth 16) = [v, 0x00] ∧ halfBytes (v.setWidth 16 <<< 8) = [0x00, v] := by
  revert v; decide

/-! ## The obligations -/

/-- Settles O1: by `decode_encode_append`, event by event. -/
theorem eventsRoundTrip : Obligations.EventsRoundTrip :=
  fun _ rest hi => decode_encode_append hi rest

/-- Settles O2: an event read from its bytes is written back as those bytes, and the rest is what follows them. -/
theorem decodedEventsReencode : Obligations.DecodedEventsReencode := by
  intro bs rest i h
  obtain ⟨k, operands, rfl, hlen, rfl, rfl⟩ := decode_eq_event h
  exact ⟨readEvent_isEvent .., by rw [encode_readEvent hlen, List.take_append_drop]⟩

/-- Settles O3: by the packet of each request, and by the row of R84 that takes a packet. -/
theorem requestsRoundTrip : Obligations.RequestsRoundTrip := by
  refine ⟨fun i he hwf => ?_, requestOf_gives_packet_back⟩
  cases i with
  | setupGetReport r => exact ⟨_, rfl, requestOf_packet r 0x01, rfl⟩
  | setupGetIdle r => exact ⟨_, rfl, requestOf_packet r 0x02, rfl⟩
  | setupGetProtocol r => exact ⟨_, rfl, requestOf_packet r 0x03, rfl⟩
  | setupSetIdle r => exact ⟨_, rfl, requestOf_packet r 0x0A, rfl⟩
  | setupSetProtocol r => exact ⟨_, rfl, requestOf_packet r 0x0B, rfl⟩
  | setupUnhandled pkt => exact ⟨pkt, rfl, (requestOf_eq_unhandled_iff pkt).2 (by simpa [Instr.wf] using hwf), rfl⟩
  | _ => cases he

/-- Settles O4: by the row of R84 that takes the packet. -/
theorem requestCodesSelect : Obligations.RequestCodesSelect := by
  intro pkt
  rcases requestOf_cases pkt with ⟨ht, hc, h⟩ | ⟨ht, hc, h⟩ | ⟨ht, hc, h⟩ | ⟨ht, hc, h⟩ | ⟨ht, hc, h⟩ | ⟨hn, h⟩
  case inr.inr.inr.inr.inr =>
    have other {code : Byte} (hm : code ∈ [0x01, 0x02, 0x03, 0x0A, 0x0B]) :
        ¬ (pkt.bmRequestType.extractLsb' 5 2 = 0b01 ∧ pkt.bRequest = code) :=
      fun ⟨ht, hc⟩ => hn ⟨ht, hc ▸ hm⟩
    refine ⟨iff_of_false ?_ (other (by decide)), iff_of_false ?_ (other (by decide)),
      iff_of_false ?_ (other (by decide)), iff_of_false ?_ (other (by decide)),
      iff_of_false ?_ (other (by decide)), iff_of_true h hn⟩
    all_goals simp [h]
  all_goals simp [ht, hc, h]

/-- Settles O6: by the decoder's answer at a reserved tag and at the tag of an event. -/
theorem decoderIsTotal : Obligations.DecoderIsTotal := by
  intro t rest
  refine ⟨fun h => decode_reserved h rest, ?_⟩
  rintro k rfl
  refine ⟨fun h => ?_, fun h => ⟨readEvent k (k.tag :: rest), readEvent_kind .., readEvent_isEvent .., ?_⟩⟩
  · rw [decode_tag, if_pos (by simpa using h)]
  · rw [decode_tag, if_neg (by simpa using h)]

/-- Settles O5: each word is the encoding of its event. -/
theorem wordsDecodeAsTheSpecSays : Obligations.WordsDecodeAsTheSpecSays :=
  ⟨decode_encode_append (i := .reset) rfl [], decode_encode_append (i := .poll) rfl [],
    decode_encode_append (i := .sample 6) rfl [], decode_encode_append (i := .sched 1) rfl [],
    decode_encode_append (i := .setup ⟨0xA1, 0x01, 0x0100, 0x0000, 0x0002⟩) rfl []⟩

/-- Settles O35: by `exec_setup`. -/
theorem setupIsTheRequestItSelects : Obligations.SetupIsTheRequestItSelects := exec_setup

/-- Settles O41: `REPEAT` by induction on its count; a request's line is the SETUP of its packet, where an
operand is one byte of `wValue`. -/
theorem pseudoEventsExpand : Obligations.PseudoEventsExpand := by
  refine ⟨fun _ _ => rfl, fun n p q => copies_eq_flatten n (iteration p q), rfl, rfl, rfl, fun v => ?_,
    rfl, rfl, rfl, rfl⟩
  obtain ⟨hlow, hhigh⟩ := halfBytes_setWidth v
  constructor
  · simp [assemble, expand, encode, SetupPacket.bytes, hhigh]
  · simp [assemble, expand, encode, SetupPacket.bytes, hlow]

end Sys2Proof.Machine
end

section
/-! SUPPORT. The polling loop: every event ends, the step stops at the end of the stream alone, POLL, and the iteration
grammar of R100 as the walks that the table of R31 admits. -/

namespace Sys2Proof

/-- The decoder finds the end exactly where no byte is left (R107). -/
theorem decode_eq_ended_iff (bs : List Byte) : decode bs = .ended ↔ bs = [] := by
  refine ⟨fun h => ?_, fun h => h ▸ rfl⟩
  cases bs with
  | nil => rfl
  | cons t rest =>
    cases ht : eventOfTag t with
    | none => simp [decode_reserved (eventOfTag_eq_none.1 ht)] at h
    | some k =>
      obtain rfl := eventOfTag_eq_some.1 ht
      rw [decode_tag] at h
      split at h <;> cases h

end Sys2Proof

namespace Sys2Proof.Machine

/-! ## The sequencing register over a list of events -/

/-- Where an event leaves the sequencing register, if it is accepted (R31). -/
def nextPhase (p : Phase) (i : Instr) : Option Phase :=
  if accepts p i.kind then some (phaseAfter i.kind) else none

/-- Where a list of events leaves the sequencing register, if each of them is accepted in its turn. -/
def phaseWalk (p : Phase) (is : List Instr) : Option Phase := is.foldlM nextPhase p

@[simp] theorem phaseWalk_nil (p : Phase) : phaseWalk p [] = some p := rfl

@[simp] theorem phaseWalk_cons (p : Phase) (i : Instr) (is : List Instr) :
    phaseWalk p (i :: is) = (nextPhase p i).bind fun q => phaseWalk q is := rfl

@[simp] theorem phaseWalk_append (p : Phase) (is js : List Instr) :
    phaseWalk p (is ++ js) = (phaseWalk p is).bind fun q => phaseWalk q js :=
  List.foldlM_append

@[simp] theorem nextPhase_reset (p : Phase) : nextPhase p .reset = some .awaitPoll := by cases p <;> rfl

@[simp] theorem nextPhase_poll : nextPhase .awaitPoll .poll = some .polling := rfl

@[simp] theorem nextPhase_sample (p : Byte) : nextPhase .polling (.sample p) = some .sampled := rfl

@[simp] theorem nextPhase_sched (q : Byte) : nextPhase .sampled (.sched q) = some .awaitPoll := rfl

theorem nextPhase_delivery {d : Instr} (hd : IsDelivery d) : nextPhase .polling d = some .polling := by
  rcases hd with hk | hk <;> simp [nextPhase, hk, accepts, phaseAfter]

/-! ## An unrefused run is a walk -/

/-- An event with well-formed operands is refused only out of phase: it leaves the refusal marks where it is accepted,
and gains one elsewhere (R215, R217). -/
theorem exec_refused {i : Instr} {s t : State} (hwf : i.wf = true ∨ i.kind = .setup) (h : exec i s = .next t) :
    (accepts s.phase i.kind = true ∧ t.refused = s.refused ∧ t.phase = phaseAfter i.kind) ∨
      (accepts s.phase i.kind = false ∧ t.refused ≠ []) := by
  by_cases ha : accepts s.phase i.kind = true
  case neg =>
    rw [exec_of_not_accepts (Bool.eq_false_iff.2 ha)] at h
    cases h
    exact .inr ⟨Bool.eq_false_iff.2 ha, insertMark_ne_nil _ s.refused⟩
  have hphase : t.phase = phaseAfter i.kind := by
    rcases phase_of_accepted ha h with ⟨-, hp⟩ | ⟨he, hn, -⟩
    · exact hp
    · exact absurd (hwf.elim id fun hk => wf_of_setup_event hk he) (by simp [hn])
  refine .inl ⟨ha, ?_, hphase⟩
  rcases exec_cases h with ⟨hn, -⟩ | ⟨-, hc⟩
  · exact absurd ha (by simp [hn])
  rcases hc with ⟨-, tr, l, rfl⟩ | ⟨-, rfl⟩ | ⟨p, rfl, hp, -⟩ | ⟨p, -, -, rfl⟩ | ⟨q, rfl, hq, -⟩ | ⟨q, -, -, rfl⟩ |
    ⟨m, best, l, -, rfl⟩ | ⟨-, rate, proto, e, rfl⟩
  · rfl
  · rfl
  · exact absurd (by simpa [Instr.wf, Instr.kind, sampleReservedClear] using hwf) hp
  · obtain ⟨l, d, k, e⟩ := samplePins_writes Config.scanOrder p s
    simp [e]
  · exact absurd (by simpa [Instr.wf, Instr.kind, schedReservedClear] using hwf) hq
  · obtain ⟨l, r, tx, e⟩ := scheduleStep_writes (readyBit q) s
    simp [e]
  · rfl
  · rfl

/-- A run ends without a refusal mark exactly when it starts without one and each event is accepted in its turn. -/
theorem runInstrs_unrefused_iff {is : List Instr} (hwf : ∀ i ∈ is, i.wf = true ∨ i.kind = .setup) {s t : State}
    (h : runInstrs is s = .next t) : t.refused = [] ↔ s.refused = [] ∧ (phaseWalk s.phase is).isSome := by
  induction is generalizing s with
  | nil =>
    cases h
    simp
  | cons i is ih =>
    have hi := exec_shape i s
    generalize sequenced i.kind (bodyOf i) s = u at hi
    simp only [runInstrs, hi] at h
    rw [ih (fun j hj => hwf j (by simp [hj])) h]
    rcases exec_refused (hwf i (by simp)) hi with ⟨ha, hr, hp⟩ | ⟨ha, hr⟩
    · simp [nextPhase, ha, hr, hp]
    · simp [nextPhase, ha, hr]

/-! ## The grammar is walked -/

theorem phaseWalk_deliveries {ds : List Instr} (hds : ∀ d ∈ ds, IsDelivery d) :
    phaseWalk .polling ds = some .polling := by
  induction ds with
  | nil => rfl
  | cons d ds ih => simp [nextPhase_delivery (hds d (by simp)), ih fun e he => hds e (by simp [he])]

theorem phaseWalk_iteration {it : List Instr} (hit : IsIteration it) : phaseWalk .awaitPoll it = some .awaitPoll := by
  obtain ⟨ds, p, q, hds, rfl⟩ := hit
  simp [phaseWalk_deliveries hds]

theorem phaseWalk_iterations {its : List (List Instr)} (hits : ∀ it ∈ its, IsIteration it) :
    phaseWalk .awaitPoll its.flatten = some .awaitPoll := by
  induction its with
  | nil => rfl
  | cons it its ih => simp [phaseWalk_iteration (hits it (by simp)), ih fun x hx => hits x (by simp [hx])]

theorem phaseWalk_partial {part : List Instr} (hpart : IsPartial part) : ∃ q, phaseWalk .awaitPoll part = some q := by
  rcases hpart with rfl | ⟨ds, hds, rfl | ⟨p, rfl⟩⟩
  · exact ⟨.awaitPoll, rfl⟩
  · exact ⟨.polling, by simp [phaseWalk_deliveries hds]⟩
  · exact ⟨.sampled, by simp [phaseWalk_deliveries hds]⟩

theorem phaseWalk_body {b : List Instr} (hb : IsBody b) : ∃ q, phaseWalk .awaitPoll b = some q := by
  obtain ⟨its, part, hits, hpart, rfl⟩ := hb
  obtain ⟨q, hq⟩ := phaseWalk_partial hpart
  exact ⟨q, by simp [phaseWalk_iterations hits, hq]⟩

/-- A list in the grammar is walked from every phase, since each body begins with a RESET. -/
theorem phaseWalk_of_inGrammar {l : List Instr} (hl : InGrammar l) (p : Phase) : ∃ q, phaseWalk p l = some q := by
  obtain ⟨bodies, hbodies, rfl⟩ := hl
  induction bodies generalizing p with
  | nil => exact ⟨p, rfl⟩
  | cons b bs ih =>
    obtain ⟨q, hq⟩ := phaseWalk_body (hbodies b (by simp))
    obtain ⟨r, hr⟩ := ih q fun x hx => hbodies x (by simp [hx])
    exact ⟨r, by simpa [hq] using hr⟩

/-! ## A walk is in the grammar -/

/-- How the last body ends where the sequencing register stands at a phase after RESET: the three shapes of R100's
`partial`. -/
def IsPartialAt : Phase → List Instr → Prop
  | .off, _ => False
  | .awaitPoll, l => l = []
  | .polling, l => ∃ ds, (∀ d ∈ ds, IsDelivery d) ∧ l = .poll :: ds
  | .sampled, l => ∃ ds p, (∀ d ∈ ds, IsDelivery d) ∧ l = .poll :: ds ++ [.sample p]

/-- What a walk from `Off` to a phase looks like: nothing yet, or a list in the grammar, a RESET, whole iterations, and
the partial iteration of that phase. -/
def IsStreamAt (p : Phase) (l : List Instr) : Prop :=
  (p = .off ∧ l = []) ∨ ∃ (g : List Instr) (its : List (List Instr)) (part : List Instr),
    InGrammar g ∧ (∀ it ∈ its, IsIteration it) ∧ IsPartialAt p part ∧
    l = g ++ .reset :: (its.flatten ++ part)

theorem IsPartialAt.isPartial {p : Phase} {l : List Instr} (h : IsPartialAt p l) : IsPartial l := by
  cases p with
  | off => cases h
  | awaitPoll => exact .inl h
  | polling =>
    obtain ⟨ds, hds, rfl⟩ := h
    exact .inr ⟨ds, hds, .inl rfl⟩
  | sampled =>
    obtain ⟨ds, p, hds, rfl⟩ := h
    exact .inr ⟨ds, hds, .inr ⟨p, rfl⟩⟩

theorem inGrammar_nil : InGrammar [] := ⟨[], by simp, rfl⟩

theorem InGrammar.append_body {g b : List Instr} (hg : InGrammar g) (hb : IsBody b) :
    InGrammar (g ++ .reset :: b) := by
  obtain ⟨bodies, hbodies, rfl⟩ := hg
  refine ⟨bodies ++ [b], fun x hx => ?_, by simp⟩
  rcases List.mem_append.1 hx with hx | hx
  · exact hbodies x hx
  · exact List.mem_singleton.1 hx ▸ hb

theorem IsStreamAt.inGrammar {p : Phase} {l : List Instr} (h : IsStreamAt p l) : InGrammar l := by
  rcases h with ⟨-, rfl⟩ | ⟨g, its, part, hg, hits, hpart, rfl⟩
  · exact inGrammar_nil
  · exact hg.append_body ⟨its, part, hits, hpart.isPartial, rfl⟩

theorem InGrammar.isStreamAt_reset {l : List Instr} (hl : InGrammar l) : IsStreamAt .awaitPoll (l ++ [.reset]) :=
  .inr ⟨l, [], [], hl, by simp, rfl, rfl⟩

/-- After RESET, an event that carries the partial iteration on carries the stream on. -/
theorem IsStreamAt.extend {p q : Phase} {l : List Instr} {i : Instr} (h : IsStreamAt p l) (hp : p ≠ .off)
    (hpart : ∀ part, IsPartialAt p part → IsPartialAt q (part ++ [i])) : IsStreamAt q (l ++ [i]) := by
  rcases h with ⟨hoff, -⟩ | ⟨g, its, part, hg, hits, hat, rfl⟩
  · exact absurd hoff hp
  · exact .inr ⟨g, its, part ++ [i], hg, hits, hpart part hat, by simp⟩

/-- A SCHED completes the partial iteration of `Sampled`, which joins the whole ones. -/
theorem IsStreamAt.sched {l : List Instr} (h : IsStreamAt .sampled l) (q : Byte) :
    IsStreamAt .awaitPoll (l ++ [.sched q]) := by
  rcases h with ⟨hoff, -⟩ | ⟨g, its, part, hg, hits, ⟨ds, p, hds, rfl⟩, rfl⟩
  · cases hoff
  · refine .inr ⟨g, its ++ [.poll :: ds ++ [.sample p, .sched q]], [], hg, fun it hit => ?_, rfl, by simp⟩
    rcases List.mem_append.1 hit with hit | hit
    · exact hits it hit
    · exact ⟨ds, p, q, hds, List.mem_singleton.1 hit⟩

/-- A delivery is one more in the service window of `Polling`. -/
theorem IsPartialAt.delivery {d : Instr} (hd : IsDelivery d) {part : List Instr} (h : IsPartialAt .polling part) :
    IsPartialAt .polling (part ++ [d]) := by
  obtain ⟨ds, hds, rfl⟩ := h
  refine ⟨ds ++ [d], fun e he => ?_, rfl⟩
  rcases List.mem_append.1 he with he | he
  · exact hds e he
  · exact List.mem_singleton.1 he ▸ hd

/-- Each accepted event carries the stream on to the phase it leaves. -/
theorem IsStreamAt.step {p : Phase} {l : List Instr} {i : Instr} (h : IsStreamAt p l)
    (ha : accepts p i.kind = true) : IsStreamAt (phaseAfter i.kind) (l ++ [i]) := by
  by_cases hd : IsDelivery i
  · obtain rfl := phase_of_accepted_delivery hd ha
    have hpolling : phaseAfter i.kind = .polling := by rcases hd with hk | hk <;> rw [hk] <;> rfl
    rw [hpolling]
    exact h.extend (by simp) fun part => IsPartialAt.delivery hd
  cases i with
  | reset => exact h.inGrammar.isStreamAt_reset
  | poll =>
    obtain rfl : p = .awaitPoll := by simpa [accepts_iff, Instr.kind] using ha
    refine h.extend (by simp) ?_
    rintro part rfl
    exact ⟨[], by simp, rfl⟩
  | sample b =>
    obtain rfl : p = .polling := by simpa [accepts_iff, Instr.kind] using ha
    refine h.extend (by simp) ?_
    rintro part ⟨ds, hds, rfl⟩
    exact ⟨ds, b, hds, rfl⟩
  | sched q =>
    obtain rfl : p = .sampled := by simpa [accepts_iff, Instr.kind] using ha
    exact h.sched q
  | busreset m => exact absurd (.inl rfl) hd
  | _ => exact absurd (.inr rfl) hd

/-- Every walk from `Off` has the shape of its last phase, by induction on the list from its end. -/
theorem isStreamAt_of_phaseWalk {l : List Instr} {p : Phase} (h : phaseWalk .off l = some p) : IsStreamAt p l := by
  induction l using List.reverseRecOn generalizing p with
  | nil =>
    cases h
    exact .inl ⟨rfl, rfl⟩
  | append_singleton l i ih =>
    rw [phaseWalk_append, Option.bind_eq_some_iff] at h
    obtain ⟨q, hq, hi⟩ := h
    obtain ⟨ha, rfl⟩ : accepts q i.kind = true ∧ phaseAfter i.kind = p := by simpa [nextPhase] using hi
    exact (ih hq).step ha

/-- The grammar of R100 is exactly the walks that the table of R31 admits from `Off`. -/
theorem phaseWalk_isSome_iff_inGrammar (l : List Instr) : (phaseWalk .off l).isSome ↔ InGrammar l := by
  rw [Option.isSome_iff_exists]
  exact ⟨fun ⟨_, h⟩ => (isStreamAt_of_phaseWalk h).inGrammar, fun h => phaseWalk_of_inGrammar h .off⟩

/-! ## Refusal out of phase -/

/-- An event out of phase is refused, with its tag and the phase it met (R215). -/
theorem refusedBy_of_not_accepts {i : Instr} {s : State} (h : accepts s.phase i.kind = false) :
    RefusedBy i s (.outOfPhase i.kind.tag s.phase) :=
  ⟨_, exec_of_not_accepts h, rfl, fun x => mem_insertMark _ x s.refused⟩

/-! ## The obligations -/

/-- Settles O49: an unrefused run is a walk of the sequencing register from `Off`, and the walks from `Off` are the
grammar. -/
theorem unrefusedRunsAreTheGrammar : Obligations.UnrefusedRunsAreTheGrammar := by
  intro is s t hoff hrefused hwf hrun
  rw [runInstrs_unrefused_iff hwf hrun, hoff, phaseWalk_isSome_iff_inGrammar]
  exact and_iff_right hrefused

/-- Settles O11: by the shape of `exec`, its sequencing check around a body. -/
theorem everyEventEnds : Obligations.EveryEventEnds :=
  fun i s => ⟨_, exec_shape i s⟩

/-- Settles O9: by the four things a step can do; the one that stops is the end of the stream. -/
theorem stepStopsOnlyAtTheEnd : Obligations.StepStopsOnlyAtTheEnd := by
  intro s
  refine ⟨fun h => by simp [step, fetch, h, decode], fun h => ?_⟩
  rcases step_cases s with ⟨i, rest, -, e⟩ | ⟨tag, rest, -, e⟩ | ⟨tag, -, e⟩ | ⟨hend, -⟩
  · exact ⟨_, e.trans (exec_shape ..)⟩
  · exact ⟨_, e⟩
  · exact ⟨_, e⟩
  · exact absurd ((decode_eq_ended_iff _).1 hend) h

/-- Settles O20: POLL is accepted in `AwaitPoll` alone, where its body sets the phase. -/
theorem pollOpensTheIteration : Obligations.PollOpensTheIteration := by
  refine ⟨decode_encode_append (i := .poll) rfl, fun s => ⟨fun h => ?_, fun h => ?_⟩⟩
  · have haccepts : accepts s.phase Instr.poll.kind = true := by rw [h]; rfl
    exact exec_of_accepts haccepts
  · refine refusedBy_of_not_accepts (i := .poll) (Bool.eq_false_iff.2 fun ha => h ?_)
    simpa [accepts_iff, Instr.kind] using ha

end Sys2Proof.Machine
end

section
/-! SUPPORT. The sampler and the latch: SAMPLE case by case, what moves the counter and the latch, and how many
iterations lie between a latch and the next one. -/

namespace Sys2Proof.Machine

/-! ## The sampler, one equation per case (R121) -/

theorem samplePins_of_not_idle {s : State} (hl : s.latch ≠ .idle) (order : ScanOrder) (p : Byte) :
    samplePins order p s = s := by
  unfold samplePins
  split
  · exact absurd ‹_› hl
  · rfl
  · rfl

theorem samplePins_of_counting {s : State} (hl : s.latch = .idle) (hd : s.debounce.toNat < 254) (order : ScanOrder)
    (p : Byte) : samplePins order p s = { s with debounce := s.debounce + 1 } := by
  rcases samplePins_cases order p s with ⟨hn, -⟩ | ⟨-, -, e⟩ | ⟨-, hge, -⟩ | ⟨-, -, hge, -⟩
  · exact absurd hl hn
  · exact e
  · omega
  · omega

theorem samplePins_of_no_winner {s : State} (hl : s.latch = .idle) (hd : 254 ≤ s.debounce.toNat) {order : ScanOrder}
    {p : Byte} (hw : winner order p = none) : samplePins order p s = { s with debounce := 255 } := by
  rcases samplePins_cases order p s with ⟨hn, -⟩ | ⟨-, hlt, -⟩ | ⟨-, -, -, e⟩ | ⟨b, -, -, hb, -⟩
  · exact absurd hl hn
  · omega
  · exact e
  · simp [hw] at hb

theorem samplePins_of_winner {s : State} (hl : s.latch = .idle) (hd : 254 ≤ s.debounce.toNat) {order : ScanOrder}
    {p : Byte} {b : Binding} (hw : winner order p = some b) :
    samplePins order p s = { s with lastKey := keycode b, debounce := 0, latch := .pendingSend } := by
  rcases samplePins_cases order p s with ⟨hn, -⟩ | ⟨-, hlt, -⟩ | ⟨-, -, hnone, -⟩ | ⟨c, -, -, hc, e⟩
  · exact absurd hl hn
  · omega
  · simp [hw] at hnone
  · obtain rfl : b = c := by simpa [hw] using hc
    exact e

theorem exists_winner_iff {order : ScanOrder} {p : Byte} :
    (∃ b, winner order p = some b) ↔ ∃ b, asserted p b = true := by
  rw [← Option.ne_none_iff_exists', Ne, winner_eq_none]
  simp

/-- In `Idle` the sampler latches exactly at saturation with a pin asserted (R122). -/
theorem samplePins_latches_iff {s : State} (hl : s.latch = .idle) (order : ScanOrder) (p : Byte) :
    (samplePins order p s).latch = .pendingSend ↔ 254 ≤ s.debounce.toNat ∧ ∃ b, winner order p = some b := by
  rcases samplePins_cases order p s with ⟨hn, -⟩ | ⟨-, hlt, e⟩ | ⟨-, -, hw, e⟩ | ⟨b, -, hge, hw, e⟩
  · exact absurd hl hn
  · simp [e, hl, hlt]
  · simp [e, hl, hw]
  · simp [e, hw, hge]

/-- In `Idle` the counter saturates, or goes back to 0 with a latch (R120). -/
theorem samplePins_counter {s : State} (hl : s.latch = .idle) (order : ScanOrder) (p : Byte) :
    ((samplePins order p s).latch = .idle →
        (samplePins order p s).debounce.toNat = min 255 (s.debounce.toNat + 1)) ∧
      ((samplePins order p s).latch ≠ .idle → (samplePins order p s).debounce = 0) := by
  rcases samplePins_cases order p s with ⟨hn, -⟩ | ⟨-, hlt, e⟩ | ⟨-, hge, -, e⟩ | ⟨b, -, -, -, e⟩
  · exact absurd hl hn
  · refine ⟨fun _ => ?_, fun h => absurd (by simp [e, hl]) h⟩
    simp only [e]
    bv_omega
  · refine ⟨fun _ => ?_, fun h => absurd (by simp [e, hl]) h⟩
    simp only [e]
    bv_omega
  · simp [e]

/-! ## SAMPLE and SCHED where they are executed, and SAMPLE where it is refused -/

theorem accepts_sample_iff {ph : Phase} : accepts ph .sample = true ↔ ph = .polling := by
  simp [accepts_iff]

/-- The body of SAMPLE: the reserved-bits check around the sampler (R121, R217). -/
theorem bodyOf_sample (p : Byte) (s : State) : bodyOf (.sample p) s =
    if p.extractLsb' 3 5 = 0 then (samplePins Config.scanOrder p s).setPhase .sampled
    else s.refuse (.reservedBits 0x02 p) := by
  by_cases hp : p.extractLsb' 3 5 = 0#5 <;> simp [bodyOf, unreserved, pinReservedSet, hp, EventKind.tag]

/-- The body of SCHED: the reserved-bits check around the scheduler (R141, R217). -/
theorem bodyOf_sched (q : Byte) (s : State) : bodyOf (.sched q) s =
    if q.extractLsb' 1 7 = 0 then (scheduleStep (readyBit q) s).setPhase .awaitPoll
    else s.refuse (.reservedBits 0x03 q) := by
  by_cases hq : q.extractLsb' 1 7 = 0#7 <;> simp [bodyOf, unreserved, readyReservedSet, hq, EventKind.tag]

theorem exec_sample_of_polling {s : State} (hs : s.phase = .polling) {p : Byte} (hp : p.extractLsb' 3 5 = 0) :
    exec (.sample p) s = .next ((samplePins Config.scanOrder p s).setPhase .sampled) := by
  rw [exec_of_accepts (accepts_sample_iff.2 hs), bodyOf_sample, if_pos hp]

theorem refusedBy_reservedBits_of_sample {s : State} (hs : s.phase = .polling) {p : Byte}
    (hp : p.extractLsb' 3 5 ≠ 0) : RefusedBy (.sample p) s (.reservedBits 0x02 p) := by
  refine ⟨s.refuse (.reservedBits 0x02 p), ?_, rfl, fun x => mem_insertMark _ x s.refused⟩
  rw [exec_of_accepts (accepts_sample_iff.2 hs), bodyOf_sample, if_neg hp]

theorem exec_sched_of_sampled {s : State} (hs : s.phase = .sampled) {q : Byte} (hq : q.extractLsb' 1 7 = 0) :
    exec (.sched q) s = .next ((scheduleStep (readyBit q) s).setPhase .awaitPoll) := by
  rw [exec_of_accepts ((accepts_iff ..).2 (.inr (.inr (.inr ⟨hs, rfl⟩)))), bodyOf_sched, if_pos hq]

theorem exec_poll_of_awaitPoll {s : State} (hs : s.phase = .awaitPoll) :
    exec .poll s = .next (s.setPhase .polling) :=
  exec_of_accepts ((accepts_iff ..).2 (.inr (.inl ⟨hs, rfl⟩)))

/-- A SAMPLE is refused, or the sampler runs and the iteration goes on (R121). -/
theorem exec_sample_cases {p : Byte} {s t : State} (h : exec (.sample p) s = .next t) :
    (∃ m, t = s.refuse m) ∨
      (s.phase = .polling ∧ p.extractLsb' 3 5 = 0 ∧ t = (samplePins Config.scanOrder p s).setPhase .sampled) := by
  rcases exec_next h with ⟨ha, rfl⟩ | ⟨-, rfl⟩
  · rw [bodyOf_sample]
    split
    · exact .inr ⟨accepts_sample_iff.1 ha, ‹_›, rfl⟩
    · exact .inl ⟨_, rfl⟩
  · exact .inl ⟨_, rfl⟩

/-- A SCHED is refused, or the scheduler makes its step and the iteration ends (R141). -/
theorem exec_sched_cases {q : Byte} {s t : State} (h : exec (.sched q) s = .next t) :
    (∃ m, t = s.refuse m) ∨ t = (scheduleStep (readyBit q) s).setPhase .awaitPoll := by
  rcases exec_next h with ⟨-, rfl⟩ | ⟨-, rfl⟩
  · rw [bodyOf_sched]
    split
    · exact .inr rfl
    · exact .inl ⟨_, rfl⟩
  · exact .inl ⟨_, rfl⟩

/-- From `Idle` no instruction but an executed SAMPLE leads to `PendingSend` (R122). -/
theorem executed_sample_of_latch {i : Instr} {s t : State} (h : exec i s = .next t) (hl : s.latch = .idle)
    (ht : t.latch = .pendingSend) : ∃ p, i = .sample p ∧ s.phase = .polling ∧ p.extractLsb' 3 5 = 0 := by
  rcases exec_cases h with ⟨-, rfl⟩ | ⟨ha, hc⟩
  · simp [hl] at ht
  rcases hc with ⟨-, tr, l, rfl⟩ | ⟨-, rfl⟩ | ⟨p, -, -, rfl⟩ | ⟨p, rfl, hp, -⟩ | ⟨q, -, -, rfl⟩ | ⟨q, -, -, rfl⟩ |
    ⟨m, best, l, -, rfl⟩ | ⟨-, rate, proto, e, rfl⟩
  · cases ht
  · simp [hl] at ht
  · simp [hl] at ht
  · exact ⟨p, rfl, accepts_sample_iff.1 ha, hp⟩
  · simp [hl] at ht
  · simp [scheduleStep, hl] at ht
  · simp [hl] at ht
  · simp [hl] at ht

/-! ## Runs taken apart -/

theorem runInstrs_append_iff {is js : List Instr} {s t : State} :
    runInstrs (is ++ js) s = .next t ↔ ∃ u, runInstrs is s = .next u ∧ runInstrs js u = .next t := by
  obtain ⟨u, hu, happ⟩ := runInstrs_append is js s
  rw [happ]
  refine ⟨fun h => ⟨u, hu, h⟩, ?_⟩
  rintro ⟨v, hv, h⟩
  rw [hu] at hv
  cases hv
  exact h

theorem runInstrs_cons_iff {i : Instr} {is : List Instr} {s t : State} :
    runInstrs (i :: is) s = .next t ↔ ∃ u, exec i s = .next u ∧ runInstrs is u = .next t := by
  simp [runInstrs, exec_shape]

theorem runInstrs_nil_iff {s t : State} : runInstrs [] s = .next t ↔ t = s := by
  simp [runInstrs, eq_comm]

/-- Events that are no SAMPLE, SCHED or RESET leave the latch and the counter alone, executed or refused. -/
theorem runInstrs_keeps_latch_counter {is : List Instr} (his : ∀ i ∈ is, i.kind ∉ [.sample, .sched, .reset])
    {s t : State} (h : runInstrs is s = .next t) : t.latch = s.latch ∧ t.debounce = s.debounce := by
  induction is generalizing s with
  | nil =>
    obtain rfl := runInstrs_nil_iff.1 h
    exact ⟨rfl, rfl⟩
  | cons i is ih =>
    obtain ⟨u, hu, hrest⟩ := runInstrs_cons_iff.1 h
    have hi : i.kind ∉ [.sample, .sched, .reset] := his i (by simp)
    obtain ⟨hlatch, hcounter, -⟩ := fieldsAreWrittenOnlyByTheirEvents i s u hu
    obtain ⟨hl, hd⟩ := ih (fun j hj => his j (by simp [hj])) hrest
    exact ⟨hl.trans (hlatch hi), hd.trans (hcounter (by simp_all)).1⟩

theorem serviceWindow_kinds {ds : List Instr} (hds : ∀ d ∈ ds, IsDelivery d) :
    ∀ i ∈ Instr.poll :: ds, i.kind ∉ [.sample, .sched, .reset] := by
  intro i hi
  rcases List.mem_cons.1 hi with rfl | hi
  · decide
  · rcases hds i hi with hk | hk <;> rw [hk] <;> decide

/-! ## After a latch the counter trails the iterations (R125) -/

/-- In `Idle` the counter is below `n`, and in the send phase it is 0. -/
def CounterBelow (n : Nat) (s : State) : Prop :=
  (s.latch = .idle → s.debounce.toNat < n) ∧ (s.latch ≠ .idle → s.debounce = 0)

theorem CounterBelow.of_eq {n : Nat} {s t : State} (h : CounterBelow n s) (hl : t.latch = s.latch)
    (hd : t.debounce = s.debounce) : CounterBelow n t := by
  rwa [CounterBelow, hl, hd]

theorem CounterBelow.succ {n : Nat} {s : State} (h : CounterBelow n s) : CounterBelow (n + 1) s :=
  ⟨fun hl => Nat.lt_succ_of_lt (h.1 hl), h.2⟩

/-- A SAMPLE adds at most 1 to the counter. -/
theorem CounterBelow.sample {n : Nat} {p : Byte} {s t : State} (hs : CounterBelow n s)
    (h : exec (.sample p) s = .next t) : CounterBelow (n + 1) t := by
  rcases exec_sample_cases h with ⟨m, rfl⟩ | ⟨-, -, rfl⟩
  · exact hs.succ.of_eq rfl rfl
  refine CounterBelow.of_eq (s := samplePins Config.scanOrder p s) ?_ rfl rfl
  by_cases hl : s.latch = .idle
  · obtain ⟨hcount, hlatch⟩ := samplePins_counter hl Config.scanOrder p
    exact ⟨fun hi => by have := hcount hi; have := hs.1 hl; omega, hlatch⟩
  · rw [samplePins_of_not_idle hl]
    exact hs.succ

/-- A SCHED comes back to `Idle` with the counter at 0. -/
theorem CounterBelow.sched {n : Nat} {q : Byte} {s t : State} (hn : 0 < n) (hs : CounterBelow n s)
    (h : exec (.sched q) s = .next t) : CounterBelow n t := by
  rcases exec_sched_cases h with ⟨m, rfl⟩ | rfl
  · exact hs.of_eq rfl rfl
  refine CounterBelow.of_eq (s := scheduleStep (readyBit q) s) ?_ rfl rfl
  rcases scheduleStep_cases (readyBit q) s with ⟨-, e⟩ | ⟨hl, -, e⟩ | ⟨hl, -, e⟩ <;> rw [e]
  · exact hs
  · exact ⟨nofun, fun _ => hs.2 (by simp [hl])⟩
  · have hzero : s.debounce = 0 := hs.2 (by simp [hl])
    exact ⟨fun _ => by simpa [hzero] using hn, fun _ => hzero⟩

/-- Just after a latch, a SCHED leaves the block in the send phase (R141). -/
theorem counterBelow_zero_of_sched {q : Byte} {s t : State} (hl : s.latch = .pendingSend) (hd : s.debounce = 0)
    (h : exec (.sched q) s = .next t) : CounterBelow 0 t := by
  rcases exec_sched_cases h with ⟨m, rfl⟩ | rfl
  · exact ⟨fun hi => by simp [hl] at hi, fun _ => hd⟩
  rcases scheduleStep_cases (readyBit q) s with ⟨-, e⟩ | ⟨-, -, e⟩ | ⟨hr, -, -⟩
  · exact ⟨fun hi => by simp [e, hl] at hi, fun _ => by simpa [e] using hd⟩
  · exact ⟨fun hi => by simp [e] at hi, fun _ => by simpa [e] using hd⟩
  · simp [hl] at hr

/-- One iteration, with any operands and deliveries, adds at most 1 to the counter. -/
theorem CounterBelow.iteration {n : Nat} {it : List Instr} (hit : IsIteration it) {s t : State}
    (hs : CounterBelow n s) (h : runInstrs it s = .next t) : CounterBelow (n + 1) t := by
  obtain ⟨ds, p, q, hds, rfl⟩ := hit
  obtain ⟨u, hwindow, h⟩ := runInstrs_append_iff.1 h
  obtain ⟨v, hsample, h⟩ := runInstrs_cons_iff.1 h
  obtain ⟨w, hsched, h⟩ := runInstrs_cons_iff.1 h
  obtain rfl := runInstrs_nil_iff.1 h
  obtain ⟨hl, hd⟩ := runInstrs_keeps_latch_counter (serviceWindow_kinds hds) hwindow
  exact ((hs.of_eq hl hd).sample hsample).sched n.succ_pos hsched

theorem CounterBelow.iterations {its : List (List Instr)} (hits : ∀ it ∈ its, IsIteration it) {n : Nat}
    {s t : State} (hs : CounterBelow n s) (h : runInstrs its.flatten s = .next t) :
    CounterBelow (n + its.length) t := by
  induction its generalizing n s with
  | nil =>
    obtain rfl := runInstrs_nil_iff.1 h
    exact hs
  | cons it its ih =>
    obtain ⟨u, hu, h⟩ := runInstrs_append_iff.1 h
    have := ih (fun x hx => hits x (by simp [hx])) (hs.iteration (hits it (by simp)) hu) h
    rwa [List.length_cons, Nat.add_comm its.length 1, ← Nat.add_assoc]

/-! ## Whole iterations with well-formed operands -/

/-- The state with the counter `n` higher. -/
def State.counted (s : State) (n : Nat) : State := { s with debounce := BitVec.ofNat 8 (s.debounce.toNat + n) }

theorem State.counted_zero (s : State) : s.counted 0 = s := by simp [State.counted]

theorem State.counted_one (s : State) : s.counted 1 = { s with debounce := s.debounce + 1 } := by
  simp [State.counted, BitVec.ofNat_add]

theorem State.counted_counted (s : State) (m n : Nat) : (s.counted m).counted n = s.counted (m + n) := by
  simp only [State.counted, BitVec.ofNat_add, BitVec.ofNat_toNat, BitVec.setWidth_eq, BitVec.add_assoc]

theorem State.counted_debounce_toNat {s : State} {n : Nat} (h : s.debounce.toNat + n < 256) :
    (s.counted n).debounce.toNat = s.debounce.toNat + n := by
  simpa [State.counted] using h

theorem KeepsPipeline.counted {s t : State} (h : KeepsPipeline s t) (n : Nat) :
    KeepsPipeline (s.counted n) (t.counted n) :=
  { h with debounce := by simp only [State.counted, h.debounce] }

/-- POLL and any deliveries run to their end and only open the service window, so far as the key pipeline sees. -/
theorem serviceWindow_run {ds : List Instr} (hds : ∀ d ∈ ds, IsDelivery d) {s : State} (hs : s.phase = .awaitPoll) :
    ∃ u, runInstrs (.poll :: ds) s = .next u ∧ KeepsPipeline (s.setPhase .polling) u ∧
      (ds = [] → u = s.setPhase .polling) := by
  have hpoll := exec_poll_of_awaitPoll hs
  obtain ⟨u, hu, keep⟩ := deliveries_run hds (s := s.setPhase .polling) rfl
  refine ⟨u, runInstrs_cons_iff.2 ⟨_, hpoll, hu⟩, keep, ?_⟩
  rintro rfl
  exact runInstrs_nil_iff.1 hu

/-- A whole iteration with well-formed operands: the sampler and the scheduler run in their turn. -/
theorem iteration_run {ds : List Instr} (hds : ∀ d ∈ ds, IsDelivery d) {p q : Byte} (hp : p.extractLsb' 3 5 = 0)
    (hq : q.extractLsb' 1 7 = 0) {s : State} (hs : s.phase = .awaitPoll) :
    ∃ u, KeepsPipeline (s.setPhase .polling) u ∧ (ds = [] → u = s.setPhase .polling) ∧
      runInstrs (.poll :: ds ++ [.sample p, .sched q]) s = .next
        ((scheduleStep (readyBit q) ((samplePins Config.scanOrder p u).setPhase .sampled)).setPhase .awaitPoll) := by
  obtain ⟨u, hu, keep, hnone⟩ := serviceWindow_run hds hs
  refine ⟨u, keep, hnone, runInstrs_append_iff.2 ⟨u, hu, ?_⟩⟩
  exact runInstrs_cons_iff.2 ⟨_, exec_sample_of_polling keep.phase hp,
    runInstrs_cons_iff.2 ⟨_, exec_sched_of_sampled rfl hq, rfl⟩⟩

/-- An iteration in `Idle` below saturation counts, and does nothing else to the key pipeline (R126, R128). -/
theorem idle_iteration_counts {it : List Instr} (hit : IsIteration it) (hwf : ∀ i ∈ it, i.wf = true ∨ i.kind = .setup)
    {s : State} (hs : s.phase = .awaitPoll) (hl : s.latch = .idle) (hd : s.debounce.toNat < 254) :
    ∃ t, runInstrs it s = .next t ∧ KeepsPipeline (s.counted 1) t ∧
      ((∀ i ∈ it, ¬ IsDelivery i) → t = s.counted 1) := by
  obtain ⟨ds, p, q, hds, rfl⟩ := hit
  have hp : p.extractLsb' 3 5 = 0 := by
    simpa [Instr.wf, Instr.kind, sampleReservedClear] using hwf (.sample p) (by simp)
  have hq : q.extractLsb' 1 7 = 0 := by
    simpa [Instr.wf, Instr.kind, schedReservedClear] using hwf (.sched q) (by simp)
  obtain ⟨u, keep, hnone, hrun⟩ := iteration_run hds hp hq hs
  have hlu : u.latch = .idle := keep.latch.trans hl
  have hsample := samplePins_of_counting hlu (by rw [keep.debounce]; exact hd) Config.scanOrder p
  have hend : runInstrs (.poll :: ds ++ [.sample p, .sched q]) s = .next ((u.counted 1).setPhase .awaitPoll) := by
    rw [hrun, hsample, State.counted_one]
    simp [scheduleStep, hlu, State.setPhase]
  refine ⟨_, hend, { keep.counted 1 with phase := hs.symm }, fun hno => ?_⟩
  have hds : ds = [] := List.eq_nil_iff_forall_not_mem.2 fun d hd => hno d (by simp [hd]) (hds d hd)
  rw [hnone hds]
  simp only [State.counted, State.setPhase, ← hs]

/-- Iterations in `Idle` up to saturation count, and do nothing else to the key pipeline (R126, R128). -/
theorem idle_iterations_count {its : List (List Instr)}
    (hits : ∀ it ∈ its, IsIteration it ∧ ∀ i ∈ it, i.wf = true ∨ i.kind = .setup) {s : State}
    (hs : s.phase = .awaitPoll) (hl : s.latch = .idle) (hd : s.debounce.toNat + its.length ≤ 254) :
    ∃ t, runInstrs its.flatten s = .next t ∧ KeepsPipeline (s.counted its.length) t ∧
      ((∀ it ∈ its, ∀ i ∈ it, ¬ IsDelivery i) → t = s.counted its.length) := by
  induction its generalizing s with
  | nil => exact ⟨s, rfl, by simpa only [List.length_nil, s.counted_zero] using .refl s, fun _ => s.counted_zero.symm⟩
  | cons it its ih =>
    rw [List.length_cons] at hd
    obtain ⟨hit, hwf⟩ := hits it (by simp)
    obtain ⟨u, hu, keep, hnone⟩ := idle_iteration_counts hit hwf hs hl (by omega)
    have hdu : u.debounce.toNat = s.debounce.toNat + 1 := by
      rw [keep.debounce, State.counted_debounce_toNat (by omega)]
    obtain ⟨t, ht, keep', hnone'⟩ := ih (fun x hx => hits x (by simp [hx])) (keep.phase.trans hs)
      (keep.latch.trans hl) (by omega)
    have hsum : (s.counted 1).counted its.length = s.counted (it :: its).length := by
      rw [State.counted_counted, Nat.add_comm, List.length_cons]
    refine ⟨t, runInstrs_append_iff.2 ⟨u, hu, ht⟩, ?_, fun hno => ?_⟩
    · rw [← hsum]
      exact (keep.counted _).trans keep'
    · rw [hnone' fun x hx => hno x (by simp [hx]), hnone (hno it (by simp)), hsum]

/-- A SAMPLE with a pin asserted latches at saturation, after a POLL and any deliveries (R122). -/
theorem press_at_saturation_latches {ds : List Instr} (hds : ∀ d ∈ ds, IsDelivery d) {p : Byte} {b : Binding}
    (hp : p.extractLsb' 3 5 = 0) (hb : asserted p b = true) {s : State} (hs : s.phase = .awaitPoll)
    (hl : s.latch = .idle) (hd : 254 ≤ s.debounce.toNat) :
    ∃ t, runInstrs (.poll :: ds ++ [.sample p]) s = .next t ∧ t.phase = .sampled ∧ t.latch = .pendingSend ∧
      t.debounce = 0 ∧ t.refused = s.refused ∧ t.txLog = s.txLog := by
  obtain ⟨u, hu, keep, -⟩ := serviceWindow_run hds hs
  obtain ⟨c, hw⟩ := (exists_winner_iff (order := Config.scanOrder)).2 ⟨b, hb⟩
  have hsample := exec_sample_of_polling keep.phase hp
  rw [samplePins_of_winner (keep.latch.trans hl) (by rw [keep.debounce]; exact hd) hw] at hsample
  exact ⟨_, runInstrs_append_iff.2 ⟨u, hu, runInstrs_cons_iff.2 ⟨_, hsample, rfl⟩⟩, rfl, rfl, rfl,
    keep.refused, keep.txLog⟩

/-! ## A held key -/

theorem IsHeldIteration.isIteration_wf {b : Binding} {it : List Instr} (h : IsHeldIteration b it) :
    IsIteration it ∧ ∀ i ∈ it, i.wf = true ∨ i.kind = .setup := by
  obtain ⟨ds, p, hds, hp, -, rfl⟩ := h
  refine ⟨⟨ds, p, 1, hds, rfl⟩, fun i hi => ?_⟩
  simp only [List.cons_append, List.mem_cons, List.mem_append, List.not_mem_nil, or_false] at hi
  rcases hi with rfl | hi | rfl | rfl
  · exact .inl rfl
  · rcases hds i hi with hk | hk
    · cases i <;> cases hk
      exact .inl rfl
    · exact .inr hk
  · exact .inl (decide_eq_true hp)
  · exact .inl rfl

/-- A ready SCHED just after a latch submits the press, and only that (R142). -/
theorem ready_sched_presses {s : State} (hs : s.phase = .sampled) (hl : s.latch = .pendingSend) :
    ∃ t, exec (.sched 1) s = .next t ∧ t.phase = .awaitPoll ∧ t.latch = .pendingRelease ∧ t.debounce = s.debounce ∧
      t.refused = s.refused ∧ t.txLog = s.txLog ++ [⟨0x01, s.lastKey⟩] := by
  refine ⟨_, exec_sched_of_sampled hs rfl, ?_⟩
  rcases scheduleStep_cases (readyBit 1) s with ⟨hn, -⟩ | ⟨-, -, e⟩ | ⟨hn, -⟩
  · simp [hl, readyBit] at hn
  · rw [e]
    exact ⟨rfl, rfl, rfl, rfl, rfl⟩
  · simp [hl] at hn

/-- A ready iteration in `PendingRelease` submits the release, and only that (R143, R123). -/
theorem ready_iteration_releases {b : Binding} {it : List Instr} (hit : IsHeldIteration b it) {s : State}
    (hs : s.phase = .awaitPoll) (hl : s.latch = .pendingRelease) :
    ∃ t, runInstrs it s = .next t ∧ t.phase = .awaitPoll ∧ t.latch = .idle ∧ t.debounce = s.debounce ∧
      t.refused = s.refused ∧ t.txLog = s.txLog ++ [⟨0x01, 0x00⟩] := by
  obtain ⟨ds, p, hds, hp, -, rfl⟩ := hit
  obtain ⟨u, keep, -, hrun⟩ := iteration_run hds hp (q := 1) rfl hs
  have hlu : u.latch = .pendingRelease := keep.latch.trans hl
  rw [samplePins_of_not_idle (by simp [hlu])] at hrun
  rcases scheduleStep_cases (readyBit 1) (u.setPhase .sampled) with ⟨hn, -⟩ | ⟨hn, -⟩ | ⟨-, -, e⟩
  · simp [hlu, readyBit] at hn
  · simp [hlu] at hn
  · rw [e] at hrun
    exact ⟨_, hrun, rfl, rfl, keep.debounce, keep.refused, congrArg (· ++ _) keep.txLog⟩

/-! ## The obligations -/

/-- Settles O22: by `executed_sample_of_latch`, and by the sampler's saturation and winner. -/
theorem latchFiresExactlyWhenSaturatedAndAsserted : Obligations.LatchFiresExactlyWhenSaturatedAndAsserted := by
  intro i s t h hl
  constructor
  · constructor
    · intro ht
      obtain ⟨p, rfl, hs, hp⟩ := executed_sample_of_latch h hl ht
      rw [exec_sample_of_polling hs hp] at h
      cases h
      obtain ⟨hd, hw⟩ := (samplePins_latches_iff hl _ p).1 ht
      exact ⟨p, rfl, hs, hp, hd, exists_winner_iff.1 hw⟩
    · rintro ⟨p, rfl, hs, hp, hd, hb⟩
      rw [exec_sample_of_polling hs hp] at h
      cases h
      exact (samplePins_latches_iff hl _ p).2 ⟨hd, exists_winner_iff.2 hb⟩
  · intro ht
    obtain ⟨p, rfl, hs, hp⟩ := executed_sample_of_latch h hl ht
    rw [exec_sample_of_polling hs hp] at h
    cases h
    obtain ⟨hd, b, hw⟩ := (samplePins_latches_iff hl _ p).1 ht
    rw [samplePins_of_winner hl hd hw]
    obtain ⟨hb, pre, post, hscan, hpre⟩ := winner_eq_some.1 hw
    exact ⟨rfl, p, rfl, pre, b, post, hscan, hb, hpre, rfl⟩

/-- Settles O23: by the sampler's counter, and by what each other instruction can write. -/
theorem debounceCounterLaw : Obligations.DebounceCounterLaw := by
  intro i s t h
  refine ⟨?_, ?_, fun hno hreset => ?_⟩
  · rintro p rfl hs hp hl
    rw [exec_sample_of_polling hs hp] at h
    cases h
    exact samplePins_counter hl Config.scanOrder p
  · rintro rfl
    obtain ⟨tr, l, e⟩ := bodyOf_reset s
    rw [exec_of_accepts ((accepts_iff ..).2 (.inl rfl)), e] at h
    cases h
    rfl
  · cases i with
    | reset => exact absurd rfl hreset
    | sample p =>
      rcases exec_sample_cases h with ⟨m, rfl⟩ | ⟨hs, hp, rfl⟩
      · rfl
      · rw [samplePins_of_not_idle fun hl => hno ⟨p, rfl, hs, hp, hl⟩]
        rfl
    | _ =>
      obtain ⟨-, hcounter, -⟩ := fieldsAreWrittenOnlyByTheirEvents _ s t h
      exact (hcounter (by simp [Instr.kind])).1

/-- Settles O46: after `n` iterations the counter is below `n` in `Idle`, and a latch wants it at 254. -/
theorem latchesAre256IterationsApart : Obligations.LatchesAre256IterationsApart := by
  rintro q p its ds s u t - hl hd hlen hits hds hrun hsample ⟨hidle, hlatch⟩
  obtain ⟨w, hw, hwindow⟩ := runInstrs_append_iff.1 hrun
  obtain ⟨v, hsched, hiters⟩ := runInstrs_cons_iff.1 hw
  have hcount : CounterBelow (0 + its.length) w := (counterBelow_zero_of_sched hl hd hsched).iterations hits hiters
  obtain ⟨hlu, hdu⟩ := runInstrs_keeps_latch_counter (serviceWindow_kinds hds) hwindow
  have hbelow := (hcount.of_eq hlu hdu).1 hidle
  obtain ⟨-, -, -, -, hsaturated, -⟩ := (latchFiresExactlyWhenSaturatedAndAsserted _ u t hsample hidle).1.1 hlatch
  omega

/-- Settles O47: by induction over the iterations, each of which counts one; at 254 the next SAMPLE latches. -/
theorem firstPressLatchesAtSaturation : Obligations.FirstPressLatchesAtSaturation := by
  intro its s hs hl hits hd
  obtain ⟨t, ht, keep, hnone⟩ := idle_iterations_count hits hs hl hd
  refine ⟨⟨t, ht, keep, hnone⟩, fun hsat ds p b hds hp hb => ?_⟩
  have hdt : 254 ≤ t.debounce.toNat := by
    rw [keep.debounce, State.counted_debounce_toNat (by omega), hsat]
  obtain ⟨w, hw, -, hlatch, hzero, -⟩ :=
    press_at_saturation_latches hds hp hb (keep.phase.trans hs) (keep.latch.trans hl) hdt
  exact ⟨w, by rw [List.append_assoc]; exact runInstrs_append_iff.2 ⟨t, ht, hw⟩, hlatch, hzero⟩

/-- Settles O48: the press in the latch's SCHED, the release in the first iteration, then 254 iterations that count up
to the next latch. -/
theorem heldKeyLatchesEvery256Iterations : Obligations.HeldKeyLatchesEvery256Iterations := by
  intro b its ds p s hs hl hd hlen hits hds hp hb
  obtain ⟨it, its, rfl⟩ := List.exists_cons_of_length_pos (l := its) (by omega)
  rw [List.length_cons] at hlen
  obtain ⟨u, hu, huphase, hulatch, hucounter, hurefused, hutx⟩ := ready_sched_presses hs hl
  obtain ⟨v, hv, hvphase, hvlatch, hvcounter, hvrefused, hvtx⟩ :=
    ready_iteration_releases (hits it (by simp)) huphase hulatch
  have hvzero : v.debounce.toNat = 0 := by simp [hvcounter, hucounter, hd]
  obtain ⟨w, hw, keep, -⟩ := idle_iterations_count (its := its)
    (fun x hx => (hits x (by simp [hx])).isIteration_wf) hvphase hvlatch (by omega)
  have hwcounter : 254 ≤ w.debounce.toNat := by
    rw [keep.debounce, State.counted_debounce_toNat (by omega)]
    omega
  have hwrefused : w.refused = v.refused := keep.refused
  have hwtx : w.txLog = v.txLog := keep.txLog
  obtain ⟨t, ht, htphase, htlatch, htcounter, htrefused, httx⟩ :=
    press_at_saturation_latches hds hp hb (keep.phase.trans hvphase) (keep.latch.trans hvlatch) hwcounter
  have hrun : runInstrs (.sched 1 :: (it :: its).flatten) s = .next w :=
    runInstrs_cons_iff.2 ⟨u, hu, runInstrs_append_iff.2 ⟨v, hv, hw⟩⟩
  refine ⟨t, ?_, htphase, htlatch, htcounter, ?_, ?_⟩
  · rw [List.append_assoc]
    exact runInstrs_append_iff.2 ⟨w, hrun, ht⟩
  · rw [htrefused, hwrefused, hvrefused, hurefused]
  · rw [httx, hwtx, hvtx, hutx, List.append_assoc]
    rfl

/-- Settles O24: by `samplePins_of_not_idle`. -/
theorem sendPhaseIgnoresThePins : Obligations.SendPhaseIgnoresThePins := by
  intro p s hs hp hl
  rw [exec_sample_of_polling hs hp, samplePins_of_not_idle hl]
  rfl

/-- Settles O21: by the decoder, the refusals of a SAMPLE, and the sampler's equation in each case. -/
theorem sampleDoesWhatItsRuleSays : Obligations.SampleDoesWhatItsRuleSays := by
  refine ⟨fun p rest => decode_encode_append (i := .sample p) rfl rest, fun p b => ?_, fun p s => ⟨fun hs => ?_,
    fun hs hp => refusedBy_reservedBits_of_sample hs hp, fun hs hp => ⟨sendPhaseIgnoresThePins p s hs hp,
      fun hl hd => ?_, fun hl hd hnone => ?_, fun pre b post hl hd hscan hb hpre => ?_⟩⟩⟩
  · cases b <;> simp [asserted, pinIndex]
  · exact refusedBy_of_not_accepts (i := .sample p) (Bool.eq_false_iff.2 fun ha => hs (accepts_sample_iff.1 ha))
  · rw [exec_sample_of_polling hs hp, samplePins_of_counting hl hd]
    rfl
  · rw [exec_sample_of_polling hs hp, samplePins_of_no_winner hl hd (winner_eq_none.2 hnone)]
    rfl
  · rw [exec_sample_of_polling hs hp,
      samplePins_of_winner hl hd (winner_eq_some.2 ⟨hb, pre, post, hscan, hpre⟩)]
    cases b <;> rfl

end Sys2Proof.Machine
end

section
/-! SUPPORT. The scheduler and the report log: SCHED case by case, which instruction can submit a report, the press and
the release of one key, and the pairing of the reports. -/

namespace Sys2Proof.Machine

/-! ## The scheduler, one equation per case (R141) -/

/-- In `Idle`, or with the transport not ready, the scheduler does nothing. -/
theorem scheduleStep_of_waiting {ready : Bool} {s : State} (h : s.latch = .idle ∨ ready = false) :
    scheduleStep ready s = s := by
  rcases scheduleStep_cases ready s with ⟨-, e⟩ | ⟨hl, hr, -⟩ | ⟨hl, hr, -⟩
  · exact e
  · simp [hl, hr] at h
  · simp [hl, hr] at h

/-- The press leg (R142). -/
theorem scheduleStep_of_pendingSend {ready : Bool} {s : State} (hl : s.latch = .pendingSend) (hready : ready = true) :
    scheduleStep ready s =
      { s with rbuf := ⟨0x01, s.lastKey⟩, txLog := s.txLog ++ [⟨0x01, s.lastKey⟩], latch := .pendingRelease } := by
  rcases scheduleStep_cases ready s with ⟨hn, -⟩ | ⟨-, -, e⟩ | ⟨hn, -⟩
  · simp [hl, hready] at hn
  · exact e
  · simp [hl] at hn

/-- The release leg (R143). -/
theorem scheduleStep_of_pendingRelease {ready : Bool} {s : State} (hl : s.latch = .pendingRelease)
    (hready : ready = true) :
    scheduleStep ready s = { s with rbuf := ⟨0x00, 0x00⟩, txLog := s.txLog ++ [⟨0x01, 0x00⟩], latch := .idle } := by
  rcases scheduleStep_cases ready s with ⟨hn, -⟩ | ⟨hn, -⟩ | ⟨-, -, e⟩
  · simp [hl, hready] at hn
  · simp [hl] at hn
  · exact e

/-! ## SCHED where it is refused, and where it submits -/

theorem accepts_sched_iff {ph : Phase} : accepts ph .sched = true ↔ ph = .sampled := by
  simp [accepts_iff]

theorem refusedBy_reservedBits_of_sched {s : State} (hs : s.phase = .sampled) {q : Byte}
    (hq : q.extractLsb' 1 7 ≠ 0) : RefusedBy (.sched q) s (.reservedBits 0x03 q) := by
  refine ⟨s.refuse (.reservedBits 0x03 q), ?_, rfl, fun x => mem_insertMark _ x s.refused⟩
  rw [exec_of_accepts (accepts_sched_iff.2 hs), bodyOf_sched, if_neg hq]

/-- Where the report log changes, the instruction is an executed SCHED (R146). -/
theorem executed_sched_of_submit {i : Instr} {s t : State} (h : exec i s = .next t) (htx : t.txLog ≠ s.txLog) :
    ∃ q, i = .sched q ∧ s.phase = .sampled ∧ t = (scheduleStep (readyBit q) s).setPhase .awaitPoll := by
  have hkind : i.kind = .sched := by
    by_contra hne
    obtain ⟨-, -, -, -, -, -, hlog, -⟩ := fieldsAreWrittenOnlyByTheirEvents i s t h
    exact htx (hlog hne)
  obtain ⟨q, rfl⟩ : ∃ q, i = .sched q := by
    cases i <;> cases hkind
    exact ⟨_, rfl⟩
  rcases exec_next h with ⟨ha, -⟩ | ⟨-, rfl⟩
  · rcases exec_sched_cases h with ⟨m, rfl⟩ | rfl
    · exact absurd rfl htx
    · exact ⟨q, rfl, accepts_sched_iff.1 ha, rfl⟩
  · exact absurd rfl htx

/-! ## What keeps the reports paired, and what moves the pairing on (R147) -/

/-- The pairing reads the latch, the key and the report log alone. -/
theorem PairedFrom.of_eq {n : Nat} {s t : State} (h : PairedFrom n s) (hl : t.latch = s.latch)
    (hk : t.lastKey = s.lastKey) (htx : t.txLog = s.txLog) : PairedFrom n t := by
  rwa [PairedFrom, hl, hk, htx]

/-- With no press unpaired, the pairing reads the report log alone. -/
theorem PairedFrom.of_no_press {n : Nat} {s t : State} (h : PairedFrom n s) (hs : s.latch ≠ .pendingRelease)
    (ht : t.latch ≠ .pendingRelease) (htx : t.txLog = s.txLog) : PairedFrom n t := by
  rw [PairedFrom, if_neg hs] at h
  rwa [PairedFrom, if_neg ht, htx]

/-- A press opens a pair. -/
theorem PairedFrom.press {n : Nat} {s t : State} (h : PairedFrom n s) (hs : s.latch ≠ .pendingRelease)
    (ht : t.latch = .pendingRelease) (htx : t.txLog = s.txLog ++ [⟨0x01, t.lastKey⟩]) : PairedFrom n t := by
  obtain ⟨ks, hks, hdrop, hn⟩ := h
  rw [if_neg hs, List.append_nil] at hdrop
  refine ⟨ks, hks, ?_, ?_⟩
  · rw [htx, List.drop_append_of_le_length hn, hdrop, if_pos ht]
  · rw [htx, List.length_append]
    omega

/-- A release closes the pair of the key pressed. -/
theorem PairedFrom.release {n : Nat} {s t : State} (h : PairedFrom n s) (hs : s.latch = .pendingRelease)
    (hk : s.lastKey ∈ [0xE9, 0xE3, 0xEA]) (ht : t.latch ≠ .pendingRelease)
    (htx : t.txLog = s.txLog ++ [⟨0x01, 0x00⟩]) : PairedFrom n t := by
  obtain ⟨ks, hks, hdrop, hn⟩ := h
  rw [if_pos hs] at hdrop
  refine ⟨ks ++ [s.lastKey], ?_, ?_, ?_⟩
  · intro k hmem
    rcases List.mem_append.1 hmem with hmem | hmem
    · exact hks k hmem
    · rwa [List.mem_singleton.1 hmem]
  · rw [htx, List.drop_append_of_le_length hn, hdrop, if_neg ht]
    simp [pressRelease]
  · rw [htx, List.length_append]
    omega

/-- A pairing counted from the end of the report log is empty. -/
theorem pairedFrom_length {s t : State} (ht : t.latch ≠ .pendingRelease) (htx : t.txLog = s.txLog) :
    PairedFrom s.txLog.length t :=
  ⟨[], nofun, by simp [ht, htx], by rw [htx]⟩

/-- In the send phase the key is one of the three bound ones (R23). -/
theorem KeyIsBound.bound_of_not_idle {s : State} (h : KeyIsBound s) (hl : s.latch ≠ .idle) :
    s.lastKey ∈ [0xE9, 0xE3, 0xEA] :=
  (List.mem_cons.1 h.1).resolve_left (h.2 hl)

/-- The sampler writes the key only in `Idle`, where no press is unpaired. -/
theorem samplePins_keeps_pairing {n : Nat} {s : State} (h : PairedFrom n s) (order : ScanOrder) (p : Byte) :
    PairedFrom n (samplePins order p s) := by
  rcases samplePins_cases order p s with ⟨-, e⟩ | ⟨-, -, e⟩ | ⟨-, -, -, e⟩ | ⟨b, hl, -, -, e⟩ <;> rw [e]
  · exact h
  · exact h.of_eq rfl rfl rfl
  · exact h.of_eq rfl rfl rfl
  · exact h.of_no_press (by simp [hl]) nofun rfl

/-- The scheduler opens a pair, closes one, or does nothing. -/
theorem scheduleStep_keeps_pairing {n : Nat} {s : State} (hkey : KeyIsBound s) (h : PairedFrom n s) (ready : Bool) :
    PairedFrom n (scheduleStep ready s) := by
  rcases scheduleStep_cases ready s with ⟨-, e⟩ | ⟨hl, -, e⟩ | ⟨hl, -, e⟩ <;> rw [e]
  · exact h
  · exact h.press (by simp [hl]) rfl rfl
  · exact h.release hl (hkey.bound_of_not_idle (by simp [hl])) nofun rfl

/-- Every instruction but RESET keeps the pairing, refused or not. -/
theorem exec_keeps_pairing {n : Nat} {i : Instr} {s t : State} (hkey : KeyIsBound s) (h : PairedFrom n s)
    (hi : i ≠ .reset) (hexec : exec i s = .next t) : PairedFrom n t := by
  cases i with
  | reset => exact absurd rfl hi
  | sample p =>
    rcases exec_sample_cases hexec with ⟨m, rfl⟩ | ⟨-, -, rfl⟩
    · exact h.of_eq rfl rfl rfl
    · exact (samplePins_keeps_pairing h _ p).of_eq rfl rfl rfl
  | sched q =>
    rcases exec_sched_cases hexec with ⟨m, rfl⟩ | rfl
    · exact h.of_eq rfl rfl rfl
    · exact (scheduleStep_keeps_pairing hkey h _).of_eq rfl rfl rfl
  | _ =>
    obtain ⟨hlatch, hcounterKey, -, -, -, -, hlog, -⟩ := fieldsAreWrittenOnlyByTheirEvents _ s t hexec
    exact h.of_eq (hlatch (by simp [Instr.kind])) (hcounterKey (by simp [Instr.kind])).2 (hlog nofun)

/-! ## The press and the release of a latched key -/

/-- A ready SCHED with a key latched: the press leg, and the next iteration is awaited (R142). -/
theorem exec_ready_sched_of_pendingSend {s : State} (hs : s.phase = .sampled) (hl : s.latch = .pendingSend) :
    exec (.sched 1) s = .next { s with
      rbuf := ⟨0x01, s.lastKey⟩, txLog := s.txLog ++ [⟨0x01, s.lastKey⟩], latch := .pendingRelease,
      phase := .awaitPoll } := by
  rw [exec_sched_of_sampled hs rfl, scheduleStep_of_pendingSend (ready := readyBit 1) hl rfl]
  rfl

/-- An iteration in `PendingRelease` with the transport ready: the state `u` after its deliveries, then the release leg
(R123, R143). -/
theorem ready_iteration_of_pendingRelease {ds : List Instr} (hds : ∀ d ∈ ds, IsDelivery d) {p : Byte}
    (hp : p.extractLsb' 3 5 = 0) {s : State} (hs : s.phase = .awaitPoll) (hl : s.latch = .pendingRelease) :
    ∃ u, KeepsPipeline (s.setPhase .polling) u ∧ (ds = [] → u = s.setPhase .polling) ∧
      runInstrs (.poll :: ds ++ [.sample p, .sched 1]) s = .next { u with
        rbuf := ⟨0x00, 0x00⟩, txLog := u.txLog ++ [⟨0x01, 0x00⟩], latch := .idle, phase := .awaitPoll } := by
  obtain ⟨u, keep, hnone, hrun⟩ := iteration_run hds hp (q := 1) rfl hs
  have hlu : u.latch = .pendingRelease := keep.latch.trans hl
  have hrelease := scheduleStep_of_pendingRelease (ready := readyBit 1) (s := u.setPhase .sampled) hlu rfl
  rw [samplePins_of_not_idle (by simp [hlu]), hrelease] at hrun
  exact ⟨u, keep, hnone, hrun⟩

/-! ## The obligations -/

/-- Settles O44: each instruction but RESET keeps the pairing, and RESET comes to `Idle` with the reports it finds. -/
theorem reportsComeInPairs : Obligations.ReportsComeInPairs := by
  refine ⟨fun n i s t hs h hi hexec => exec_keeps_pairing hs.key h hi hexec, fun s t hexec => ?_⟩
  obtain ⟨tr, l, e⟩ := bodyOf_reset s
  rw [exec_of_accepts ((accepts_iff ..).2 (.inl rfl)), e] at hexec
  cases hexec
  exact pairedFrom_length nofun rfl

/-- Settles O26: only an executed SCHED submits, and only on one of its two legs. -/
theorem submitsOnlyWhenReady : Obligations.SubmitsOnlyWhenReady := by
  intro i s t h htx
  obtain ⟨q, rfl, hs, rfl⟩ := executed_sched_of_submit h htx
  rcases scheduleStep_cases (readyBit q) s with ⟨-, e⟩ | ⟨hl, hready, e⟩ | ⟨hl, hready, e⟩
  · exact absurd (congrArg State.txLog e) htx
  · exact ⟨q, rfl, hready, hs, .inl ⟨hl, congrArg State.latch e, congrArg State.txLog e⟩⟩
  · exact ⟨q, rfl, hready, hs, .inr ⟨hl, congrArg State.latch e, congrArg State.txLog e⟩⟩

/-- Settles O45: the press in the latch's own SCHED, then the release in the next iteration. -/
theorem readyTransportPressesThenReleases : Obligations.ReadyTransportPressesThenReleases := by
  intro ds p s hs hl hp hds released
  have hpress := exec_ready_sched_of_pendingSend hs hl
  obtain ⟨u, keep, hnone, hrun⟩ := ready_iteration_of_pendingRelease hds hp (s := { s with
    rbuf := ⟨0x01, s.lastKey⟩, txLog := s.txLog ++ [⟨0x01, s.lastKey⟩], latch := .pendingRelease,
    phase := .awaitPoll }) rfl rfl
  have hlog : u.txLog ++ [⟨0x01, 0x00⟩] = released.txLog := by simp [keep.txLog, released]
  refine ⟨_, runInstrs_cons_iff.2 ⟨_, hpress, hrun⟩, { keep with
    latch := rfl, rbuf := rfl, phase := rfl, txLog := hlog }, fun hds => ?_⟩
  rw [hlog, hnone hds]
  rfl

/-- Settles O25: by the decoder, the refusals of a SCHED, and the scheduler's equation in each case. -/
theorem schedDoesWhatItsRuleSays : Obligations.SchedDoesWhatItsRuleSays := by
  refine ⟨fun q rest => decode_encode_append (i := .sched q) rfl rest, fun q s => ⟨fun hs => ?_,
    fun hs hq => refusedBy_reservedBits_of_sched hs hq, fun hs hq => ?_⟩⟩
  · exact refusedBy_of_not_accepts (i := .sched q) (Bool.eq_false_iff.2 fun ha => hs (accepts_sched_iff.1 ha))
  rw [exec_sched_of_sampled hs hq, readyBit]
  refine ⟨fun hl => ?_, fun hwait => ?_, fun hl hready => ?_, fun hl hready => ?_⟩
  · rw [scheduleStep_of_waiting (.inl hl)]
    rfl
  · rw [scheduleStep_of_waiting (.inr hwait)]
    rfl
  · rw [scheduleStep_of_pendingSend hl hready]
    rfl
  · rw [scheduleStep_of_pendingRelease hl hready]
    rfl

end Sys2Proof.Machine
end

section
/-! SUPPORT. The calibrator: the binary search, the refinement and the whole calibration held against the description
of a calibration that keeps no machine state; then what a frame function makes of that description. -/

namespace Sys2Proof.Machine

/-! ## One probe, masked or not -/

/-- A measurement answers the draw (R162). -/
@[simp] theorem measure_fst (s : State) (m : Draws) (k : Nat) : (s.measure m k).1 = drawAt m k := rfl

/-- A measurement is logged at the trim in force, whether or not notifications are masked (R162). -/
@[simp] theorem measure_snd_hist (s : State) (m : Draws) (k : Nat) :
    (s.measure m k).2.hist = s.hist ++ [.measure s.trim (drawAt m k)] := by
  cases h : s.inCal
  · rw [measure_outside_calibration h]
    rfl
  · rw [measure_in_calibration h]
    rfl

/-- The log of a probe at a trim value given as a byte. -/
theorem probeLog_toNat (c : Byte) (x : Half) : probeLog c.toNat x = [.trimWrite c, .measure c x] := by
  simp [probeLog]

/-! ## The binary search (R165, R166) -/

theorem trialBefore_succ (target : Nat) (m : Draws) (k : Nat) : trialBefore target m (k + 1) =
    trialBefore target m k + if (drawAt m k).toNat < target then 2 ^ (7 - k) else 0 := rfl

/-- One step is half of the one before it. -/
theorem step_halves {k : Nat} (hk : k < 8) : 2 ^ (8 - k) = 2 ^ (7 - k) + 2 ^ (7 - k) := by
  rw [show 8 - k = 7 - k + 1 by omega, pow_succ, mul_two]

theorem steps_after_probe (k : Nat) : 8 - (k + 1) = 7 - k := Nat.succ_sub_succ_eq_sub 7 k

/-- The steps still to come leave the trial in range. -/
theorem trialBefore_add_le (target : Nat) (m : Draws) {k : Nat} (hk : k ≤ 8) :
    trialBefore target m k + 2 ^ (8 - k) ≤ 256 := by
  induction k with
  | zero => simp [trialBefore]
  | succ k ih =>
    have before := ih (Nat.le_of_succ_le hk)
    rw [step_halves hk] at before
    have pos : 0 < 2 ^ (7 - k) := Nat.two_pow_pos _
    rw [trialBefore_succ, steps_after_probe]
    split <;> omega

/-- No probe wraps (R166). -/
theorem probe_le (target : Nat) (m : Draws) {k : Nat} (hk : k < 8) :
    trialBefore target m k + 2 ^ (7 - k) ≤ 255 := by
  have h := trialBefore_add_le target m hk.le
  have pos : 0 < 2 ^ (7 - k) := Nat.two_pow_pos _
  rw [step_halves hk] at h
  omega

theorem trialOf_le (target : Nat) (m : Draws) : trialOf target m ≤ 255 :=
  Nat.le_of_lt_succ (trialBefore_add_le target m (le_refl 8))

/-- The log of the first `k` probes of the binary search. -/
def searchLogBefore (target : Nat) (m : Draws) (k : Nat) : List HistEntry :=
  (List.range k).flatMap fun j => probeLog (trialBefore target m j + 2 ^ (7 - j)) (drawAt m j)

theorem searchLogBefore_succ (target : Nat) (m : Draws) (k : Nat) : searchLogBefore target m (k + 1) =
    searchLogBefore target m k ++ probeLog (trialBefore target m k + 2 ^ (7 - k)) (drawAt m k) := by
  simp [searchLogBefore, List.range_succ]

/-- The search after `k` probes from a state with log `log`. -/
structure SearchAt (target : Nat) (m : Draws) (log : List HistEntry) (k : Nat) (r : Search) : Prop where
  trial : r.trial.toNat = trialBefore target m k
  count : r.k = k
  hist : r.st.hist = log ++ searchLogBefore target m k

theorem SearchAt.probe {target : Nat} {m : Draws} {log : List HistEntry} {k : Nat} {r : Search}
    (h : SearchAt target m log k r) (hk : k < 8) {step : Byte} (hstep : step.toNat = 2 ^ (7 - k)) :
    SearchAt target m log (k + 1) (searchProbe target m r step) := by
  have probed : (r.trial + step).toNat = trialBefore target m k + 2 ^ (7 - k) := by
    rw [BitVec.toNat_add_of_lt (by rw [h.trial, hstep]; exact Nat.lt_succ_of_le (probe_le target m hk)), h.trial, hstep]
  refine ⟨?_, congrArg (· + 1) h.count, ?_⟩
  · rw [trialBefore_succ, searchProbe, measure_fst, h.count]
    split
    · exact probed
    · exact h.trial
  · rw [searchLogBefore_succ, ← probed, probeLog_toNat]
    simp [searchProbe, h.hist, h.count]

/-- The search's first `k` probes, by induction on their number. -/
theorem searchAt_take (target : Nat) (m : Draws) (s : State) {k : Nat} (hk : k ≤ 8) : SearchAt target m s.hist k
    ((searchSteps.take k).foldl (searchProbe target m) { trial := 0, k := 0, st := s }) := by
  induction k with
  | zero => exact ⟨rfl, rfl, by simp [searchLogBefore]⟩
  | succ k ih =>
    have hlt : k < searchSteps.length := hk
    have hstep : ∀ j (hj : j < searchSteps.length), searchSteps[j].toNat = 2 ^ (7 - j) := by decide
    rw [List.take_succ_eq_append_getElem hlt, List.foldl_append]
    exact (ih (Nat.le_of_succ_le hk)).probe hk (hstep k hlt)

theorem searchAt_binarySearch (target : Nat) (m : Draws) (s : State) :
    SearchAt target m s.hist 8 (binarySearch target m s) := searchAt_take target m s (le_refl 8)

/-- Draws that lead the search to `v`: below every positive target where the bit of the step is set, and at or above
every 16-bit target elsewhere. -/
def drawsReaching (v : Byte) : Draws :=
  let answer (b : Nat) : Half := if v.getLsbD b then 0 else 65535
  ⟨answer 7, answer 6, answer 5, answer 4, answer 3, answer 2, answer 1, answer 0, 0, 0, 0⟩

theorem drawAt_drawsReaching (v : Byte) {k : Nat} (hk : k < 8) :
    drawAt (drawsReaching v) k = if v.getLsbD (7 - k) then 0 else 65535 := by
  interval_cases k <;> rfl

/-- Before probe `k` the trial holds the top `k` bits of `v`. -/
theorem trialBefore_drawsReaching {target : Nat} (hpos : 0 < target) (hlt : target < 2 ^ 16) (v : Byte) {k : Nat}
    (hk : k ≤ 8) : trialBefore target (drawsReaching v) k = v.toNat / 2 ^ (8 - k) * 2 ^ (8 - k) := by
  induction k with
  | zero => simp [trialBefore, Nat.div_eq_of_lt v.isLt]
  | succ k ih =>
    have kept : (drawAt (drawsReaching v) k).toNat < target ↔ v.toNat / 2 ^ (7 - k) % 2 = 1 := by
      rw [drawAt_drawsReaching v hk, ← BitVec.testBit_toNat, Nat.testBit_eq_decide_div_mod_eq]
      by_cases hbit : v.toNat / 2 ^ (7 - k) % 2 = 1
      · simp [hbit, hpos]
      · simp [hbit, Nat.le_of_lt_succ hlt]
    have halved : v.toNat / 2 ^ (8 - k) = v.toNat / 2 ^ (7 - k) / 2 := by
      rw [show 8 - k = 7 - k + 1 by omega, pow_succ, Nat.div_div_eq_div_mul]
    rw [trialBefore_succ, ih (Nat.le_of_succ_le hk), halved, step_halves hk, steps_after_probe]
    have parity := Nat.div_add_mod (v.toNat / 2 ^ (7 - k)) 2
    generalize v.toNat / 2 ^ (7 - k) = a at *
    generalize 2 ^ (7 - k) = d at *
    generalize a / 2 = b at *
    split
    · obtain rfl : a = 2 * b + 1 := by omega
      ring
    · obtain rfl : a = 2 * b := by omega
      ring

theorem trialOf_drawsReaching {target : Nat} (hpos : 0 < target) (hlt : target < 2 ^ 16) (v : Byte) :
    trialOf target (drawsReaching v) = v.toNat := by
  simpa [trialOf] using trialBefore_drawsReaching hpos hlt v (le_refl 8)

/-! ## The first least of a row of numbers -/

/-- `j` is the first index below `n` at which `dev` is least. -/
def FirstLeast (dev : Nat → Nat) (n j : Nat) : Prop :=
  j < n ∧ (∀ i < n, dev j ≤ dev i) ∧ ∀ i < j, dev j < dev i

theorem firstLeast_one (dev : Nat → Nat) : FirstLeast dev 1 0 := by
  simp [FirstLeast]

/-- One number more that is no smaller leaves the first least. -/
theorem FirstLeast.keep {dev : Nat → Nat} {n j : Nat} (h : FirstLeast dev n j) (hn : dev j ≤ dev n) :
    FirstLeast dev (n + 1) j := by
  obtain ⟨hj, hle, hlt⟩ := h
  exact ⟨Nat.lt_succ_of_lt hj, Nat.forall_lt_succ_right.2 ⟨hle, hn⟩, hlt⟩

/-- One number more that is strictly smaller becomes the first least. -/
theorem FirstLeast.replace {dev : Nat → Nat} {n j : Nat} (h : FirstLeast dev n j) (hn : dev n < dev j) :
    FirstLeast dev (n + 1) n := by
  obtain ⟨hj, hle, hlt⟩ := h
  have below : ∀ i < n, dev n < dev i := fun i hi => hn.trans_le (hle i hi)
  exact ⟨Nat.lt_succ_self n, Nat.forall_lt_succ_right.2 ⟨fun i hi => (below i hi).le, le_rfl⟩, below⟩

theorem FirstLeast.unique {dev : Nat → Nat} {n i j : Nat} (hi : FirstLeast dev n i) (hj : FirstLeast dev n j) :
    i = j := by
  obtain ⟨hin, hile, hilt⟩ := hi
  obtain ⟨hjn, hjle, hjlt⟩ := hj
  rcases lt_trichotomy i j with h | h | h
  · exact absurd (hjlt i h) (hile j hjn).not_gt
  · exact h
  · exact absurd (hilt j h) (hjle i hin).not_gt

theorem isBest_iff {target : Nat} {m : Draws} {best : Byte} : IsBest target m best ↔
    ∃ j, (windowOf (trialOf target m))[j]? = some best.toNat ∧
      FirstLeast (candidateDev target m) (windowOf (trialOf target m)).length j :=
  exists_congr fun _ => and_congr_right fun h =>
    (and_iff_right (List.getElem?_eq_some_iff.1 h).1).symm

/-- There is one best candidate only. -/
theorem IsBest.unique {target : Nat} {m : Draws} {b c : Byte} (hb : IsBest target m b) (hc : IsBest target m c) :
    b = c := by
  obtain ⟨i, hi, hileast⟩ := isBest_iff.1 hb
  obtain ⟨j, hj, hjleast⟩ := isBest_iff.1 hc
  rw [hileast.unique hjleast, hj] at hi
  exact BitVec.eq_of_toNat_eq (Option.some.inj hi).symm

/-! ## The refinement (R167) -/

/-- The refinement's candidates are the window of its trial. -/
theorem windowOf_toNat (t : Byte) : windowOf t.toNat = (candidates t).map BitVec.toNat := by
  revert t; decide

theorem refineLog_append_one (m : Draws) (cs : List Byte) (c : Byte) :
    refineLog m ((cs ++ [c]).map BitVec.toNat) =
      refineLog m (cs.map BitVec.toNat) ++ [.trimWrite c, .measure c (drawAt m (8 + cs.length))] := by
  rw [← probeLog_toNat]
  simp [refineLog, List.zipIdx_append]

/-- The refinement once the candidates `cs` are measured, from a state with log `log`: it holds the first of them with
the smallest deviation. -/
structure RefinedBy (target : Nat) (m : Draws) (log : List HistEntry) (cs : List Byte) (r : Refinement) : Prop where
  count : r.k = 8 + cs.length
  hist : r.st.hist = log ++ refineLog m (cs.map BitVec.toNat)
  best : (cs = [] ∧ r.bestDev = none) ∨ ∃ j, cs[j]? = some r.best ∧ r.bestDev = some (candidateDev target m j) ∧
    FirstLeast (candidateDev target m) cs.length j

theorem RefinedBy.probe {target : Nat} {m : Draws} {log : List HistEntry} {cs : List Byte} {r : Refinement}
    (h : RefinedBy target m log cs r) (c : Byte) :
    RefinedBy target m log (cs ++ [c]) (refineProbe target m r c) := by
  have hdev : deviation (drawAt m r.k) target = candidateDev target m cs.length := by rw [h.count, candidateDev]
  refine ⟨by simp [refineProbe, h.count, Nat.add_assoc], ?_, .inr ?_⟩
  · rw [refineLog_append_one]
    simp [refineProbe, h.hist, h.count]
  simp only [refineProbe, measure_fst, hdev, List.length_append, List.length_singleton]
  rcases h.best with ⟨rfl, hnone⟩ | ⟨j, hj, hsome, hleast⟩
  · exact ⟨0, by simp [hnone, improves], by simp [hnone, improves], firstLeast_one _⟩
  by_cases hlt : candidateDev target m cs.length < candidateDev target m j
  · exact ⟨cs.length, by simp [hsome, improves, hlt], by simp [hsome, improves, hlt], hleast.replace hlt⟩
  · have hin : (cs ++ [c])[j]? = some r.best := by rw [List.getElem?_append_left hleast.1, hj]
    exact ⟨j, by simp [hsome, improves, hlt, hin], by simp [hsome, improves, hlt], hleast.keep (not_lt.1 hlt)⟩

/-- The refinement over any candidates, by induction on their number. -/
theorem refinedBy_foldl (target : Nat) (m : Draws) (cs : List Byte) {r : Refinement} (hk : r.k = 8)
    (hdev : r.bestDev = none) : RefinedBy target m r.st.hist cs (cs.foldl (refineProbe target m) r) := by
  induction cs using List.reverseRecOn with
  | nil => exact ⟨hk, by simp [refineLog], .inl ⟨rfl, hdev⟩⟩
  | append_singleton cs c ih =>
    rw [List.foldl_append]
    exact ih.probe c

theorem refinedBy_refine (target : Nat) (m : Draws) {f : Search} (hk : f.k = 8) :
    RefinedBy target m f.st.hist (candidates f.trial) (refine target m f) :=
  refinedBy_foldl target m (candidates f.trial) (r := { best := f.trial, bestDev := none, k := f.k, st := f.st }) hk rfl

/-! ## The whole calibration -/

/-- A calibration ends at the best candidate and logs what its description says (R164 to R169). -/
theorem calibrate_best_and_log (target : Nat) (m : Draws) (s : State) :
    IsBest target m (calibrate target m s).trim ∧
      (calibrate target m s).hist = s.hist ++ calibrationLog target m (calibrate target m s).trim := by
  have hsearch := searchAt_binarySearch target m (s.setInCal true)
  simp only [calibrate]
  generalize binarySearch target m (s.setInCal true) = f at hsearch
  have hwindow : windowOf (trialOf target m) = (candidates f.trial).map BitVec.toNat := by
    rw [← windowOf_toNat, hsearch.trial, trialOf]
  have hrefine := refinedBy_refine target m hsearch.count
  generalize refine target m f = r at hrefine
  constructor
  · rcases hrefine.best with ⟨hnil, -⟩ | ⟨j, hj, -, hleast⟩
    · rw [candidates_eq] at hnil
      split_ifs at hnil
    · exact isBest_iff.2 ⟨j, by simp [hwindow, hj], by simpa [hwindow] using hleast⟩
  · simp [hrefine.hist, hsearch.hist, calibrationLog, hwindow, searchLog, searchLogBefore]

/-- What a calibration leaves, field by field. -/
theorem calibrate_eq (target : Nat) (m : Draws) (s : State) : ∃ best, IsBest target m best ∧ calibrate target m s =
    { s with trim := best, nvCal := best, calCache := best, inCal := false,
             hist := s.hist ++ calibrationLog target m best } := by
  obtain ⟨best, l, e, -⟩ := calibrate_frame target m s
  obtain ⟨hbest, hlog⟩ := calibrate_best_and_log target m s
  rw [e] at hbest hlog
  exact ⟨best, hbest, by rw [e, List.append_cancel_left hlog]⟩

theorem accepts_busreset_iff {ph : Phase} : accepts ph .busreset = true ↔ ph = .polling := by
  simp [accepts_iff]

/-- An accepted BUSRESET (R164 to R169, R213). -/
theorem exec_busreset_of_polling (m : Draws) {s : State} (hs : s.phase = .polling) :
    ∃ best, IsBest target m best ∧ exec (.busreset m) s = .next
      { s with
        trim := best, nvCal := best, calCache := best, inCal := false, faults := faultsOnDelivery 0x04 s,
        hist := s.hist ++ calibrationLog target m best } := by
  obtain ⟨best, hbest, e⟩ := calibrate_eq target m (delivered .busreset s)
  have hbody : bodyOf (.busreset m) s = calibrate target m (delivered .busreset s) := rfl
  refine ⟨best, hbest, ?_⟩
  rw [exec_of_accepts (accepts_busreset_iff.2 hs), hbody, e, delivered_eq]
  rfl

/-- What the claims under a frame function know of an accepted BUSRESET's outcome. -/
theorem exec_busreset_outcome {m : Draws} {s t : State} {l : List HistEntry} (hs : s.phase = .polling)
    (h : exec (.busreset m) s = .next t) (hl : t.hist = s.hist ++ l) :
    IsBest target m t.trim ∧ l = calibrationLog target m t.trim := by
  obtain ⟨best, hbest, e⟩ := exec_busreset_of_polling m hs
  rw [e] at h
  cases h
  exact ⟨hbest, (List.append_cancel_left hl).symm⟩

/-! ## How much a calibration logs (R171, R172) -/

/-- The window as a run of neighbours. -/
theorem windowOf_eq_range' (t : Nat) : windowOf t = List.range' (t - 1) (if t = 0 ∨ t = 255 then 2 else 3) := by
  unfold windowOf
  by_cases h0 : t = 0
  · simp [h0, List.range']
  by_cases h255 : t = 255
  · simp [h255, List.range']
  · simp [h0, h255, List.range']
    omega

theorem windowOf_length (t : Nat) : (windowOf t).length = if t = 0 ∨ t = 255 then 2 else 3 := by
  rw [windowOf_eq_range', List.length_range']

/-- Entries that each probe logs `n` of, counted over a whole calibration. -/
theorem countP_calibrationLog (target : Nat) (m : Draws) (best : Byte) {p : HistEntry → Bool} {n : Nat}
    (hp : ∀ c x, (probeLog c x).countP p = n) : (calibrationLog target m best).countP p =
      (8 + (windowOf (trialOf target m)).length) * n +
        [HistEntry.trimWrite best, .nvWrite Config.calAddr best].countP p := by
  simp only [calibrationLog, searchLog, refineLog, List.countP_append, List.countP_flatMap, Function.comp_def, hp,
    List.map_const', List.sum_replicate, List.length_range, List.length_zipIdx, smul_eq_mul, Nat.add_mul]

/-! ## A frame function (R170) -/

/-- Under a frame function each draw of the search is its value at the probe. -/
theorem MeasuredBy.search_draw {f : Byte → Half} {target : Nat} {m : Draws} {best : Byte}
    (hf : MeasuredBy f (calibrationLog target m best)) {k : Nat} (hk : k < 8) :
    drawAt m k = f (BitVec.ofNat 8 (trialBefore target m k + 2 ^ (7 - k))) :=
  hf _ _ (List.mem_append_left _ (List.mem_append_left _
    (List.mem_flatMap_of_mem (List.mem_range.2 hk) (by simp [probeLog]))))

/-- Under a frame function each draw of the refinement is its value at the candidate. -/
theorem MeasuredBy.window_draw {f : Byte → Half} {target : Nat} {m : Draws} {best c : Byte}
    (hf : MeasuredBy f (calibrationLog target m best)) {j : Nat}
    (hj : (windowOf (trialOf target m))[j]? = some c.toNat) : drawAt m (8 + j) = f c := by
  have hmem : (c.toNat, 8 + j) ∈ (windowOf (trialOf target m)).zipIdx 8 :=
    List.mk_mem_zipIdx_iff_le_and_getElem?_sub.2 ⟨Nat.le_add_right 8 j, by rwa [Nat.add_sub_cancel_left]⟩
  exact hf _ _ (List.mem_append_left _ (List.mem_append_right _
    (List.mem_flatMap_of_mem hmem (by simp [probeLog_toNat]))))

/-- The bracket of the binary search before probe `k`: the frame is short at the trial, unless that is 0, and long at
the trial plus the step of the probe before, unless that is 256. -/
theorem trialBefore_brackets {f : Byte → Half} {target : Nat} {m : Draws}
    (hdraw : ∀ k < 8, drawAt m k = f (BitVec.ofNat 8 (trialBefore target m k + 2 ^ (7 - k)))) {k : Nat} (hk : k ≤ 8) :
    ((f (BitVec.ofNat 8 (trialBefore target m k))).toNat < target ∨ trialBefore target m k = 0) ∧
      (trialBefore target m k + 2 ^ (8 - k) = 256 ∨
        target ≤ (f (BitVec.ofNat 8 (trialBefore target m k + 2 ^ (8 - k)))).toNat) := by
  induction k with
  | zero => exact ⟨.inr rfl, .inl rfl⟩
  | succ k ih =>
    obtain ⟨hshort, hlong⟩ := ih (Nat.le_of_succ_le hk)
    rw [step_halves hk, ← Nat.add_assoc] at hlong
    rw [trialBefore_succ, steps_after_probe, hdraw k hk]
    split
    · exact ⟨.inl ‹_›, hlong⟩
    · exact ⟨hshort, .inr (not_lt.1 ‹_›)⟩

/-- The trims at most 1 from the trial are the window, each at its distance from the window's first. -/
theorem windowOf_getElem?_iff {t j c : Nat} (ht : t ≤ 255) : (windowOf t)[j]? = some c ↔
    c = t - 1 + j ∧ c ≤ 255 ∧ c ≤ t + 1 ∧ t ≤ c + 1 := by
  rw [windowOf_eq_range', List.getElem?_eq_some_iff]
  simp only [List.length_range', List.getElem_range', exists_prop]
  split <;> omega

/-- Under a frame function the best candidate has the smallest deviation in the window, and the lowest trim of those
that have it. -/
theorem IsBest.least_in_window {f : Byte → Half} {target : Nat} {m : Draws} {best c : Byte}
    (hbest : IsBest target m best) (hf : MeasuredBy f (calibrationLog target m best))
    (hle : c.toNat ≤ trialOf target m + 1) (hge : trialOf target m ≤ c.toNat + 1) :
    deviation (f best) target ≤ deviation (f c) target ∧
      (c.toNat < best.toNat → deviation (f best) target < deviation (f c) target) := by
  have ht := trialOf_le target m
  obtain ⟨j, hj, -, hleast, hfirst⟩ := isBest_iff.1 hbest
  obtain ⟨i, hi⟩ : ∃ i, (windowOf (trialOf target m))[i]? = some c.toNat :=
    ⟨c.toNat - (trialOf target m - 1), (windowOf_getElem?_iff ht).2 (by omega)⟩
  have hbestIndex := (windowOf_getElem?_iff ht).1 hj
  have hcIndex := (windowOf_getElem?_iff ht).1 hi
  rw [← hf.window_draw hj, ← hf.window_draw hi]
  exact ⟨hleast i (List.getElem?_eq_some_iff.1 hi).1, fun hlt => hfirst i (by omega)⟩

theorem deviation_le_of_below {x y : Half} {target : Nat} (hxy : x.toNat ≤ y.toNat) (hy : y.toNat ≤ target) :
    deviation y target ≤ deviation x target := by
  unfold deviation
  omega

theorem deviation_le_of_above {x y : Half} {target : Nat} (hx : target ≤ x.toNat) (hxy : x.toNat ≤ y.toNat) :
    deviation x target ≤ deviation y target := by
  unfold deviation
  omega

/-! ## The obligations -/

/-- Settles O27: by the decoder, the sequencing check, and the calibration held against its description. -/
theorem busresetCalibratesAndPersists : Obligations.BusresetCalibratesAndPersists :=
  ⟨fun m rest => decode_encode_append (i := .busreset m) rfl rest, fun m _ =>
    ⟨fun hs => refusedBy_of_not_accepts (i := .busreset m)
      (Bool.eq_false_iff.2 fun ha => hs (accepts_busreset_iff.1 ha)), exec_busreset_of_polling m⟩⟩

/-- Settles O28: by the search's eight probes, and for the last part by draws that spell the result bit by bit. -/
theorem searchNeverWraps : Obligations.SearchNeverWraps := by
  refine ⟨fun target m s => ?_, fun target s v hpos hlt => ⟨drawsReaching v, ?_⟩⟩
  · obtain ⟨htrial, hcount, hhist⟩ := searchAt_binarySearch target m s
    exact ⟨fun k hk => probe_le target m hk, htrial, hcount, hhist⟩
  · exact BitVec.eq_of_toNat_eq
      ((searchAt_binarySearch target (drawsReaching v) s).trial.trans (trialOf_drawsReaching hpos hlt v))

/-- Settles O29: each probe logs one measurement and one trim write, and there are eight probes and the window's. -/
theorem calibrationMakesTenOrElevenMeasurements : Obligations.CalibrationMakesTenOrElevenMeasurements := by
  intro m s hs
  obtain ⟨best, -, e⟩ := exec_busreset_of_polling m hs
  refine ⟨_, calibrationLog target m best, e, rfl, ?_⟩
  rw [countP_calibrationLog target m best (n := 1) fun _ _ => rfl,
    countP_calibrationLog target m best (n := 1) fun _ _ => rfl,
    countP_calibrationLog target m best (n := 0) fun _ _ => rfl, windowOf_length]
  split_ifs <;> simp

/-- Settles O30: the search keeps its bracket, and the refinement takes the first least of the window. That the frame
function is monotone is not needed here; O31 needs it. -/
theorem calibrationConverges : Obligations.CalibrationConverges := by
  intro f m s t l hs _ hexec hhist hf
  obtain ⟨hbest, rfl⟩ := exec_busreset_outcome hs hexec hhist
  obtain ⟨hshort, hlong⟩ := trialBefore_brackets (fun _ => hf.search_draw) (le_refl 8)
  obtain ⟨j, hj, -⟩ := isBest_iff.1 hbest
  obtain ⟨-, -, hle, hge⟩ := (windowOf_getElem?_iff (trialOf_le target m)).1 hj
  exact ⟨(searchAt_binarySearch target m s).trial, trialOf_le target m, hshort, hlong.imp_left Nat.succ.inj, hle, hge,
    fun _ hcle hcge => hbest.least_in_window hf hcle hcge⟩

/-- Settles O31: by O30 the frame is short up to the trial and long above it, so each other trim is no closer than one
of the two neighbours in the window. -/
theorem calibrationFindsTheClosestTrim : Obligations.CalibrationFindsTheClosestTrim := by
  intro f m s t l hs hmono hexec hhist hf c
  obtain ⟨-, hrange, hshort, hlong, -, -, hleast⟩ := calibrationConverges f m s t l hs hmono hexec hhist hf
  generalize trialOf target m = trial at *
  have toNat_trial : (BitVec.ofNat 8 trial).toNat = trial := by
    rw [BitVec.toNat_ofNat, Nat.mod_eq_of_lt (by omega)]
  have hc := c.isLt
  by_cases hnear : c.toNat ≤ trial + 1 ∧ trial ≤ c.toNat + 1
  · exact (hleast c hnear.1 hnear.2).1
  rcases Nat.lt_or_ge trial c.toNat with habove | hbelow
  · have toNat_next : (BitVec.ofNat 8 (trial + 1)).toNat = trial + 1 := by
      rw [BitVec.toNat_ofNat, Nat.mod_eq_of_lt (by omega)]
    have hlong : target ≤ (f (BitVec.ofNat 8 (trial + 1))).toNat := hlong.resolve_left (by omega)
    exact (hleast _ (by omega) (by omega)).1.trans (deviation_le_of_above hlong (hmono _ c (by omega)))
  · have hshort : (f (BitVec.ofNat 8 trial)).toNat < target := hshort.resolve_right (by omega)
    exact (hleast _ (by omega) (by omega)).1.trans (deviation_le_of_below (hmono c _ (by omega)) hshort.le)

/-- Settles O32: both end at the one best candidate of their draws, whatever state they start from. -/
theorem calibrationForgetsThePast : Obligations.CalibrationForgetsThePast := by
  intro m s s' hs hs'
  obtain ⟨best, hbest, e⟩ := exec_busreset_of_polling m hs
  obtain ⟨best', hbest', e'⟩ := exec_busreset_of_polling m hs'
  obtain rfl := hbest.unique hbest'
  exact ⟨_, _, _, e, e', rfl, rfl, rfl, rfl, rfl⟩

/-- Settles O33: by the closed form of the rounding and the bounds of the clock. -/
theorem targetIsRoundedHalfUp : Obligations.TargetIsRoundedHalfUp := by
  have hclock := fCpuHz_le
  have bounded : ∀ hz ≤ 459054536, targetOf hz < 2 ^ 16 := fun hz h => by
    rw [targetOf_eq]
    omega
  exact ⟨targetOf_eq _, fCpuHz_pos, bounded _ hclock, fun hz h => bounded hz (by omega), rfl, rfl⟩

end Sys2Proof.Machine
end

section
/-! SUPPORT. The control requests: what each of the six answers and stores where SETUP is accepted, and SETUP as the
request its packet selects. -/

namespace Sys2Proof

/-- A class packet's type byte is that of its class request (R82). -/
theorem requestType_classRequest {pkt : SetupPacket} (h : pkt.bmRequestType.extractLsb' 5 2 = 0b01) :
    pkt.classRequest.requestType = pkt.bmRequestType :=
  requestType_of_class pkt.bmRequestType h

end Sys2Proof

namespace Sys2Proof.Machine

/-! ## The shell of a control request (R191) -/

theorem accepts_setup_iff {ph : Phase} : accepts ph .setup = true ↔ ph = .polling := by
  simp [accepts_iff]

theorem exec_request_of_polling {i : Instr} (hi : i.kind = .setup) {s : State} (hs : s.phase = .polling) :
    exec i s = .next (bodyOf i s) :=
  exec_of_accepts (by rw [hi, accepts_setup_iff, hs])

/-- An answer logged on delivery: R213's mark and the log entry, and nothing else. -/
theorem respond_delivered (s : State) (bmRequestType bRequest : Byte) (resp : List Byte) :
    (delivered .setup s).respond bmRequestType bRequest resp = answeredWith s bmRequestType bRequest resp := by
  rw [delivered_eq]
  rfl

/-- A request that only answers. -/
theorem exec_request_of_respond {i : Instr} (hi : i.kind = .setup) {s : State} (hs : s.phase = .polling)
    {bmRequestType bRequest : Byte} {resp : List Byte}
    (hbody : bodyOf i s = (delivered .setup s).respond bmRequestType bRequest resp) :
    exec i s = .next (answeredWith s bmRequestType bRequest resp) := by
  rw [exec_request_of_polling hi hs, hbody, respond_delivered]

/-! ## The obligations -/

/-- Settles O36: the answer is the buffer as it stands, and by R25 the latch says what stands there. -/
theorem getReportAnswersTheBuffer : Obligations.GetReportAnswersTheBuffer := by
  intro r s hs
  refine ⟨exec_request_of_respond rfl hs rfl, fun ⟨hrelease, hother⟩ => ?_⟩
  split
  · rw [hrelease ‹_›]
  · rw [hother ‹_›]

/-- Settles O37: the body of each of the two requests only answers. -/
theorem getRequestsAnswerOneByte : Obligations.GetRequestsAnswerOneByte :=
  fun _ _ hs => ⟨exec_request_of_respond rfl hs rfl, exec_request_of_respond rfl hs rfl⟩

/-- Settles O38: an answer does not touch the two HID registers, so storing before it is storing after it. -/
theorem setRequestsStoreOneByte : Obligations.SetRequestsStoreOneByte := by
  intro r s hs
  constructor
  · rw [exec_request_of_polling rfl hs, ← respond_delivered]
    rfl
  · rw [exec_request_of_polling rfl hs, ← respond_delivered]
    rfl

/-- Settles O39: a packet that no class row of R84 takes selects UNHANDLED, so SETUP is that request. -/
theorem unhandledRequestsGetAnEmptyAnswer : Obligations.UnhandledRequestsGetAnEmptyAnswer := by
  intro pkt s hs
  have unhandled : exec (.setupUnhandled pkt) s = .next (answeredWith s pkt.bmRequestType pkt.bRequest []) :=
    exec_request_of_respond rfl hs rfl
  refine ⟨unhandled, fun hn => ?_⟩
  have selected : requestOf pkt = .setupUnhandled pkt :=
    (requestOf_eq_unhandled_iff pkt).2 (Bool.eq_false_iff.2 fun h => hn ((isHandled_iff pkt).1 h))
  rw [exec_setup, selected, unhandled]

/-- Settles O34: row by row of R84, an accepted SETUP is answered as O36 to O39 say of the request it selects. -/
theorem setupAnswersItsRequest : Obligations.SetupAnswersItsRequest := by
  refine ⟨fun pkt rest => decode_encode_append (i := .setup pkt) rfl rest, fun pkt s => ⟨fun hs => ?_, fun hs => ?_⟩⟩
  · exact refusedBy_of_not_accepts (i := .setup pkt) (Bool.eq_false_iff.2 fun ha => hs (accepts_setup_iff.1 ha))
  obtain ⟨getIdle, getProtocol⟩ := getRequestsAnswerOneByte pkt.classRequest s hs
  obtain ⟨setIdle, setProtocol⟩ := setRequestsStoreOneByte pkt.classRequest s hs
  rcases requestOf_cases pkt with ⟨ht, hc, h⟩ | ⟨ht, hc, h⟩ | ⟨ht, hc, h⟩ | ⟨ht, hc, h⟩ | ⟨ht, hc, h⟩ | ⟨hn, -⟩
  · rw [exec_setup, h, (getReportAnswersTheBuffer pkt.classRequest s hs).1, requestType_classRequest ht]
    simp [ht, hc]
  · rw [exec_setup, h, getIdle, requestType_classRequest ht]
    simp [ht, hc]
  · rw [exec_setup, h, getProtocol, requestType_classRequest ht]
    simp [ht, hc]
  · rw [exec_setup, h, setIdle, requestType_classRequest ht]
    simp [ht, hc, SetupPacket.classRequest]
  · rw [exec_setup, h, setProtocol, requestType_classRequest ht]
    simp [ht, hc, SetupPacket.classRequest]
  · rw [(unhandledRequestsGetAnEmptyAnswer pkt s hs).2 hn]
    by_cases ht : pkt.bmRequestType.extractLsb' 5 2 = 0b01
    · have hother : pkt.bRequest ∉ [0x01, 0x02, 0x03, 0x0A, 0x0B] := fun hc => hn ⟨ht, hc⟩
      simp only [List.mem_cons, List.not_mem_nil, or_false, not_or] at hother
      simp only [ht, hother, if_true, if_false]
    · rw [if_neg ht]

end Sys2Proof.Machine
end

section
/-! SUPPORT. The exceptions: the marks that every instruction and every step keeps, the bytes that no event decodes
from, and a delivery while `inCal = 1`. -/

namespace Sys2Proof.Machine

/-! ## The marks are kept (R219) -/

/-- No instruction clears a mark: a refusal may add one refusal mark, a delivery one fault mark, and nothing
else touches them. -/
theorem exec_keeps_marks {i : Instr} {s t : State} (h : exec i s = .next t) :
    s.faults ⊆ t.faults ∧ s.refused ⊆ t.refused := by
  have refusal (m : RefusalMark) : s.faults ⊆ (s.refuse m).faults ∧ s.refused ⊆ (s.refuse m).refused :=
    ⟨List.Subset.refl s.faults, subset_insertMark m s.refused⟩
  have delivery (m : FaultMark) : s.faults ⊆ if s.inCal then insertMark m s.faults else s.faults := by
    split
    · exact subset_insertMark m s.faults
    · exact List.Subset.refl s.faults
  rcases exec_cases h with ⟨-, rfl⟩ | ⟨-, hc⟩
  · exact refusal _
  rcases hc with ⟨-, tr, l, rfl⟩ | ⟨-, rfl⟩ | ⟨p, -, -, rfl⟩ | ⟨p, -, -, rfl⟩ | ⟨q, -, -, rfl⟩ | ⟨q, -, -, rfl⟩ |
    ⟨m, best, l, -, rfl⟩ | ⟨-, rate, proto, e, rfl⟩
  · exact ⟨List.Subset.refl s.faults, List.Subset.refl s.refused⟩
  · exact ⟨List.Subset.refl s.faults, List.Subset.refl s.refused⟩
  · exact refusal _
  · obtain ⟨l, d, k, e⟩ := samplePins_writes Config.scanOrder p s
    simp [e]
  · exact refusal _
  · obtain ⟨l, r, tx, e⟩ := scheduleStep_writes (readyBit q) s
    simp [e]
  · exact ⟨delivery _, List.Subset.refl s.refused⟩
  · exact ⟨delivery _, List.Subset.refl s.refused⟩

/-! ## Bytes that are no event (R216, R218) -/

theorem step_of_reserved {s : State} {tag : Byte} {rest : List Byte} (h : decode s.stream = .reserved tag rest) :
    step s = .next ((s.consumed rest).refuse (.reservedTag tag)) := by
  simp only [step, fetch, h, takeReserved]

theorem step_of_truncated {s : State} {tag : Byte} (h : decode s.stream = .truncated tag) :
    step s = .next ((s.consumed []).refuse (.truncated tag)) := by
  simp only [step, fetch, h, takeTruncated]

/-! ## A delivery while `inCal = 1` (R213, R224)

A delivery raises its mark and then runs its body, which does not depend on the `inCal` it finds: a calibration sets it
first, and a control request carries it along. -/

theorem delivered_of_masked {s : State} (h : s.inCal = true) (e : EventKind) :
    delivered e s = s.raise (.notifyInCalibration e.tag) := by
  simp [delivered, h]

theorem setInCal_setInCal (s : State) (b c : Bool) : (s.setInCal b).setInCal c = s.setInCal c := rfl

theorem calibrate_setInCal (target : Nat) (m : Draws) (s : State) (b : Bool) :
    calibrate target m (s.setInCal b) = calibrate target m s := by
  simp only [calibrate, setInCal_setInCal]

theorem setInCal_calibrate (target : Nat) (m : Draws) (s : State) :
    (calibrate target m s).setInCal false = calibrate target m s := by
  simp only [calibrate, setInCal_setInCal]

theorem bodyOf_busreset_of_masked {s : State} (h : s.inCal = true) (m : Draws) : bodyOf (.busreset m) s =
    (bodyOf (.busreset m) ((s.raise (.notifyInCalibration EventKind.busreset.tag)).setInCal false)).setInCal false := by
  simp only [bodyOf, delivered_of_masked h, delivered_of_unmasked (State.setInCal_inCal ..), calibrate_setInCal,
    setInCal_calibrate]

/-- The body of a control request; `bodyOf_setup` brings that of a SETUP to one. -/
theorem bodyOf_request_of_masked {s : State} (h : s.inCal = true) {i : Instr} (hk : i.kind = .setup)
    (hn : i.isEvent = false) : bodyOf i s =
      (bodyOf i ((s.raise (.notifyInCalibration EventKind.setup.tag)).setInCal false)).setInCal s.inCal := by
  cases i <;> cases hk <;> cases hn <;>
    simp only [bodyOf, delivered_of_masked h, delivered_of_unmasked (State.setInCal_inCal ..)] <;> rfl

/-- A masked delivery has the effect it has with its mark already recorded and the mask down, but that a SETUP leaves
the mask up. -/
theorem bodyOf_delivery_of_masked {s : State} (h : s.inCal = true) {i : Instr} (hi : IsDelivery i) : bodyOf i s =
    (bodyOf i ((s.raise (.notifyInCalibration i.kind.tag)).setInCal false)).setInCal (i.kind = .setup) := by
  rcases hi with hk | hk
  · obtain ⟨m, rfl⟩ : ∃ m, i = .busreset m := by
      cases i <;> cases hk
      exact ⟨_, rfl⟩
    simp only [Instr.kind, reduceCtorEq, decide_false]
    exact bodyOf_busreset_of_masked h m
  · simp only [hk, decide_true, ← h]
    by_cases he : i.isEvent = true
    · obtain ⟨pkt, rfl⟩ : ∃ pkt, i = .setup pkt := by
        cases i <;> cases hk <;> cases he
        exact ⟨_, rfl⟩
      obtain ⟨-, -, hrequest⟩ := requestsRoundTrip.2 pkt
      rw [bodyOf_setup, bodyOf_setup]
      exact bodyOf_request_of_masked h (kind_of_not_isEvent hrequest) hrequest
    · exact bodyOf_request_of_masked h hk (Bool.eq_false_iff.2 he)

/-! ## The obligations -/

/-- Settles O12: by the shape of `exec`, R31's table being the check of the shell. -/
theorem outOfPhaseIsRefused : Obligations.OutOfPhaseIsRefused :=
  fun _ _ h => refusedBy_of_not_accepts ((accepts_false_iff ..).2 h)

/-- Settles O13: by the reserved-bits check around the sampler and around the scheduler. -/
theorem reservedBitsAreRefused : Obligations.ReservedBitsAreRefused :=
  ⟨fun _ _ hs hp => refusedBy_reservedBits_of_sample hs hp, fun _ _ hs hq => refusedBy_reservedBits_of_sched hs hq⟩

/-- Settles O8: by what the step does on such bytes, which is to take them off the stream and refuse. -/
theorem undecodableBytesAreRefused : Obligations.UndecodableBytesAreRefused :=
  fun s _ _ => ⟨fun h => ⟨_, step_of_reserved h, rfl, rfl, fun m => mem_insertMark _ m s.refused⟩,
    fun h => ⟨_, step_of_truncated h, rfl, rfl, fun m => mem_insertMark _ m s.refused⟩⟩

/-- Settles O15: every instruction keeps both kinds of mark, and the other things a step can do are refusals. -/
theorem marksAreSticky : Obligations.MarksAreSticky := by
  refine ⟨fun _ _ _ => exec_keeps_marks, fun s t h => ?_⟩
  rcases step_cases s with ⟨i, rest, -, e⟩ | ⟨tag, rest, -, e⟩ | ⟨tag, -, e⟩ | ⟨-, e⟩ <;> rw [e] at h
  · exact exec_keeps_marks (s := s.consumed rest) h
  · cases h
    exact ⟨List.Subset.refl s.faults, subset_insertMark _ s.refused⟩
  · cases h
    exact ⟨List.Subset.refl s.faults, subset_insertMark _ s.refused⟩
  · cases h

/-- Settles O40: by `bodyOf_delivery_of_masked`; the mark is recorded before the body runs, and no body clears one. -/
theorem deliveryInCalibrationIsMarked : Obligations.DeliveryInCalibrationIsMarked := by
  intro i s hi hs hc
  have ha : accepts s.phase i.kind = true := by rcases hi with hk | hk <;> simp [accepts_iff, hs, hk]
  have hrun := exec_of_accepts (s := (s.raise (.notifyInCalibration i.kind.tag)).setInCal false) ha
  refine ⟨_, _, exec_of_accepts ha, hrun, ?_, bodyOf_delivery_of_masked hc hi⟩
  rw [bodyOf_delivery_of_masked hc hi]
  exact (exec_keeps_marks hrun).1 ((mem_insertMark ..).2 (.inr rfl))

end Sys2Proof.Machine
end

section
/-! SUPPORT. The boot: what RESET leaves, field by field, and the store byte that outlasts every event but BUSRESET. -/

namespace Sys2Proof.Machine

/-! ## The store between calibrations (R50, R240) -/

/-- Without a BUSRESET a run leaves the store byte alone, boots included. -/
theorem runInstrs_keeps_nvCal {is : List Instr} (his : ∀ i ∈ is, i.kind ≠ .busreset) {s t : State}
    (h : runInstrs is s = .next t) : t.nvCal = s.nvCal := by
  induction is generalizing s with
  | nil => rw [runInstrs_nil_iff.1 h]
  | cons i is ih =>
    obtain ⟨u, hu, hrest⟩ := runInstrs_cons_iff.1 h
    obtain ⟨-, -, -, -, -, hstore, -⟩ := fieldsAreWrittenOnlyByTheirEvents i s u hu
    calc t.nvCal
      _ = u.nvCal := ih (fun j hj => his j (List.mem_cons_of_mem i hj)) hrest
      _ = s.nvCal := hstore (his i List.mem_cons_self)

/-- Every list of instructions runs to its end (R105, R210). -/
theorem runInstrs_completes (is : List Instr) (s : State) : ∃ t, runInstrs is s = .next t :=
  (runInstrs_append is [] s).imp fun _ => And.left

/-! ## The obligations -/

/-- Settles O17: RESET is accepted in every phase, and its body splits on whether the store holds the sentinel. -/
theorem resetSetsEveryField : Obligations.ResetSetsEveryField := by
  refine ⟨decode_encode_append (i := .reset) rfl, fun s => ?_⟩
  have haccepts : accepts s.phase Instr.reset.kind = true := (accepts_iff ..).2 (.inl rfl)
  rw [exec_of_accepts haccepts]
  by_cases h : s.nvCal = 0xFF#8 <;>
    simp [bodyOf, bootTrim, bootVolatile, State.nvRead, State.trimWrite, State.log, State.setPhase, calAbsent,
      zeroReport, idleDefault, protocolBoot, h]

/-- Settles O19: the calibration persists its trim, the run in between keeps the store byte, and the boot reads it. -/
theorem nextBootAppliesTheCalibration : Obligations.NextBootAppliesTheCalibration := by
  intro m is s hs his
  obtain ⟨t, hcal, hpersisted⟩ : ∃ t, exec (.busreset m) s = .next t ∧ t.nvCal = t.trim := by
    obtain ⟨best, -, hcal⟩ := exec_busreset_of_polling m hs
    exact ⟨_, hcal, rfl⟩
  obtain ⟨v, hrun⟩ := runInstrs_completes is t
  have hstore : v.nvCal = t.trim := (runInstrs_keeps_nvCal his hrun).trans hpersisted
  exact ⟨t, v, _, hcal, hrun, resetSetsEveryField.2 v, hstore, hstore, by rw [hstore]⟩

end Sys2Proof.Machine
end
